-- ==== Sys2Proof/Word.lean ====
section
/-!
DEFINITION. The register word and the two-bit-width vocabulary of the vainCrypto CORE
(`spec/00_scope.md` R5, R7). Conversions to integers live in `Machine/Operands.lean`.
-/

namespace Sys2Proof

/-- The 32-bit pattern every register, operand, result and command word holds (R5, R7). -/
abbrev Word := BitVec 32

/-- A four-bit field: `STATUS.LASTOP`, `STATUS.CAUSE`, a command word's `opcode` (R24, R60). -/
abbrev Nibble := BitVec 4

end Sys2Proof
end

