-- ==== Sys2Proof/Config.lean ====
section
/-!
DEFINITION. What the platform fixes and the spec leaves open.
-/

namespace Sys2Proof

/-- FREE VALUE (log entry 5). What the host sees when it reads a register index outside 0..8, as a
function of the index and of how many reads came before: "what the host sees is the platform's
affair" (`spec/20_memory.md` R41). No body, so nothing about it can be proved. -/
opaque Config.platformRead : Nat → Nat → Word

end Sys2Proof
end

