-- ==== Sys2Proof/Syntax.lean ====
section
/-!
DEFINITION. The nine commands (`spec/30_encoding.md` R61, `spec/opcode_table.json`), one
constructor per row. A command carries no register number, immediate or mode bit (R60), so no
constructor has an argument: operands and results sit in fixed registers (R62).
-/

namespace Sys2Proof

/-- The commands of R61, in the order of the opcode table. -/
inductive Instr where
  /-- index of the most significant set bit (R81) -/
  | msb32
  /-- next power of two (R83) -/
  | npow2
  /-- extended Euclidean solver (R93) -/
  | eea
  /-- modular inverse (R96) -/
  | invm
  /-- Montgomery parameter `n'` (R102) -/
  | mn1
  /-- Montgomery parameter `r^-1 mod n` (R104) -/
  | mr1
  /-- one Montgomery reduction step (R112) -/
  | mredc
  /-- Montgomery-domain exponentiation (R115) -/
  | mexp
  /-- binary square-and-multiply exponentiation (R126) -/
  | powm
  deriving DecidableEq, Repr

end Sys2Proof
end

