-- ==== Sys2Proof/WellFormed.lean ====
section
/-!
DEFINITION. Well-formedness. A command has no fields (`spec/30_encoding.md` R60), so every term of
`Instr` is well formed; what can be ill formed is a command WORD, by R61's decoder: "`w` is legal
iff `w[31:4] = 0` and `1 <= w[3:0] <= 9`". The checks here are written on the word's bits and do
not use the decoder.
-/

namespace Sys2Proof

/-- The `zero` field, bits 31:4, is 0 (R60). -/
def zeroFieldClear (w : Word) : Bool := w.extractLsb' 4 28 == 0

/-- The `opcode` field, bits 3:0, is not the unassigned opcode 0 (R61, R65). -/
def opcodeNonzero (w : Word) : Bool := w.extractLsb' 0 4 != 0

/-- The `opcode` field, bits 3:0, is not one of the unassigned opcodes 10 to 15 (R61, R65). -/
def opcodeAtMostNine (w : Word) : Bool := decide ((w.extractLsb' 0 4).toNat ≤ 9)

/-- A legal command word (R61). -/
def wordLegal (w : Word) : Bool := zeroFieldClear w && opcodeNonzero w && opcodeAtMostNine w

/-- Every command is well formed: it has no operand field to check (R60). -/
def Instr.wellFormed : Instr → Bool
  | .msb32 => true
  | .npow2 => true
  | .eea => true
  | .invm => true
  | .mn1 => true
  | .mr1 => true
  | .mredc => true
  | .mexp => true
  | .powm => true

end Sys2Proof
end

