-- ==== Sys2Proof/Decode.lean ====
section
/-!
DEFINITION. The decoder of command words and the encoder (`spec/30_encoding.md` R60, R61, R65).
The decoder is total on all 32-bit words and says by name why it rejects one.
-/

namespace Sys2Proof

/-- Why a command word is not one of the nine of R61. -/
inductive DecodeError where
  /-- `w[31:4] != 0` (R64) -/
  | zeroFieldSet
  /-- `w[3:0]` is 0 or one of 10 to 15 (R64, R65) -/
  | opcodeUnassigned
  deriving DecidableEq, Repr

/-- The opcode map of R61 on the four opcode bits. -/
def decodeOpcode (op : Nibble) : Option Instr :=
  match op.toNat with
  | 1 => some .msb32
  | 2 => some .npow2
  | 3 => some .eea
  | 4 => some .invm
  | 5 => some .mn1
  | 6 => some .mr1
  | 7 => some .mredc
  | 8 => some .mexp
  | 9 => some .powm
  | _ => none

/-- The `opcode` field of a command word, bits 3:0 (R60). -/
def opcodeField (w : Word) : Nibble := w.extractLsb' 0 4

/-- The `zero` field of a command word, bits 31:4 (R60). -/
def zeroField (w : Word) : BitVec 28 := w.extractLsb' 4 28

/-- The command a word written to `CMD` selects, or why it is illegal (R61, R64, R65). -/
def decode (w : Word) : Except DecodeError Instr :=
  if zeroField w ≠ 0 then .error .zeroFieldSet
  else
    match decodeOpcode (opcodeField w) with
    | some i => .ok i
    | none => .error .opcodeUnassigned

/-- The opcode number of a command (R61). -/
def opcodeOf : Instr → Nibble
  | .msb32 => 1
  | .npow2 => 2
  | .eea => 3
  | .invm => 4
  | .mn1 => 5
  | .mr1 => 6
  | .mredc => 7
  | .mexp => 8
  | .powm => 9

/-- The word of a command: opcode in bits 3:0, bits 31:4 zero (R60, R61). -/
def encode (i : Instr) : Word := (0 : BitVec 28) ++ opcodeOf i

/-- The 32-bit command word whose low `nbits` bits are those of `w` and whose other bits are 0. -/
def tableWord (nbits w : Nat) : Word := BitVec.ofNat 32 (w % 2 ^ nbits)

/-- What the decoder reads from an opcode-table row's bits. A command is one 32-bit word, so a row
wider than that is no command (log entry 14). -/
def decodeTableWord (nbits w : Nat) : Option Instr :=
  if nbits ≤ 32 then (decode (tableWord nbits w)).toOption else none

end Sys2Proof
end

