-- ==== Sys2Proof/Machine/State.lean ====
section
/-!
DEFINITION. The state of one instance of the block (`spec/10_state.md` R20), as plain data, and the
reasons a step can stop. There is no program counter, no memory, no mode and no interrupt state
(R27, R28, `spec/20_memory.md` R40, `spec/60_exceptions.md` R138, R139).
-/

namespace Sys2Proof.Machine

/-- The error causes (`spec/60_exceptions.md` R130). "No error", code 0, is the `none` of
`Option Cause`; codes 6..15 are never produced (R130, U13). -/
inductive Cause where
  /-- code 1: the modulus operand is not a positive signed 32-bit integer -/
  | modulusNonPositive
  /-- code 2: the solver's `d != 1` for the inverse being taken -/
  | noModularInverseExists
  /-- code 3: `MSB32` of 0 -/
  | bitScanOfZero
  /-- code 4: an operand outside the range its command gives a meaning to -/
  | operandRange
  /-- code 5: a word written to `CMD` that is not one of the nine -/
  | illegalCommand
  deriving DecidableEq, Repr

/-- Four operand words: the registers `OP0`..`OP3` (R21) and the latches `LAT[0..3]` (R29). -/
structure Operands where
  op0 : Word
  op1 : Word
  op2 : Word
  op3 : Word
  deriving DecidableEq, Repr

/-- The result registers `RES0`..`RES2` (R22). -/
structure Results where
  res0 : Word
  res1 : Word
  res2 : Word
  deriving DecidableEq, Repr

/-- The name of a result register, as a command's rule uses it (`spec/00_scope.md` R11). -/
inductive ResultReg where
  | res0
  | res1
  | res2
  deriving DecidableEq, Repr

/-- A command's outcome `exec(op, LAT[0..3])`: the result-register writes, or the error cause
(`spec/00_scope.md` R12). -/
inductive CommandResult where
  | ok (writes : List (ResultReg × Word))
  | err (cause : Cause)
  deriving DecidableEq, Repr

/-- One transition that lies ahead of the block: who moves and how (`spec/20_memory.md` R49, R50).
The list of these in `State.events` is the schedule; it is data the spec leaves free. -/
inductive Event where
  /-- the host reads the register of this index (R43) -/
  | read (index : Nat)
  /-- the host writes this word to the register of this index (R44) -/
  | write (index : Nat) (value : Word)
  /-- a bus access that is not one whole 32-bit register (R42) -/
  | irregular
  /-- the engine has its turn (R50; `spec/30_encoding.md` R66) -/
  | engine
  /-- a reset is delivered (`spec/70_reset_and_hazards.md` R150) -/
  | reset
  deriving DecidableEq, Repr

/-- The block's state (R20) in the first eight fields, and beside it what the model keeps of the
world outside the block (log entries 2 and 3). -/
structure State where
  /-- `OP0`..`OP3` (R21) -/
  op : Operands
  /-- `LAT[0..3]` (R29) -/
  lat : Operands
  /-- `RES0`..`RES2` (R22) -/
  res : Results
  /-- `STATUS.BUSY` (R24) -/
  busy : Bool
  /-- `STATUS.DONE` (R24) -/
  done : Bool
  /-- `STATUS.ERR` (R24) -/
  err : Bool
  /-- `STATUS.CAUSE` (R24, R26) -/
  cause : Option Cause
  /-- `STATUS.LASTOP` (R24, R26) -/
  lastOp : Nibble
  /-- MODEL'S OWN: the transitions to come, oldest first -/
  events : List Event
  /-- MODEL'S OWN: the values the host's reads have returned, newest first -/
  reads : List Word
  deriving DecidableEq, Repr

/-- Why the machine stops with a fault. -/
inductive Fault where
  /-- Raised by `engineStep` when `BUSY = 1` and `LASTOP` names no command. No run reaches such a
  state, since only a legal word sets `BUSY` (`spec/30_encoding.md` R63). SAFE: the machine stops
  where the spec gives nothing (log entry 10). -/
  | runningOpcodeIllegal (op : Nibble)
  deriving DecidableEq, Repr

/-- Why a step is refused. -/
inductive Refusal where
  /-- An instruction of the opcode table without a meaning. SAFE. No arm of `exec` uses it. -/
  | notModelled (mnemonic : String)
  /-- Raised by `runEvent` on a narrower, wider or misaligned bus access: "a model refuses it (it
  gives it no meaning)" (`spec/20_memory.md` R42). SAFE (log entry 6). -/
  | irregularAccess
  deriving DecidableEq, Repr

/-- Operand words that are all 0. -/
def Operands.zero : Operands := { op0 := 0, op1 := 0, op2 := 0, op3 := 0 }

/-- Result words that are all 0. -/
def Results.zero : Results := { res0 := 0, res1 := 0, res2 := 0 }

/-- The machine right after reset (`spec/10_state.md` R32). DESIGN CHOICE: the latches, which R32
leaves unspecified, are 0 (log entry 4), and no transition is scheduled (log entries 2, 3, 7). -/
def State.reset : State :=
  { op := Operands.zero
    lat := Operands.zero
    res := Results.zero
    busy := false
    done := false
    err := false
    cause := none
    lastOp := 0
    events := []
    reads := [] }

end Sys2Proof.Machine
end

