-- ==== Sys2Proof/Machine/Flags.lean ====
section
/-!
DEFINITION. The `STATUS` register as a word (`spec/10_state.md` R24) and the cause codes
(`spec/60_exceptions.md` R130). The block has no other flags, and no command sets a flag from a
result value (R25).
-/

namespace Sys2Proof.Machine

/-- The code of a cause in `STATUS.CAUSE` (R130). -/
def causeCode (c : Option Cause) : Nibble :=
  match c with
  | none => 0
  | some .modulusNonPositive => 1
  | some .noModularInverseExists => 2
  | some .bitScanOfZero => 3
  | some .operandRange => 4
  | some .illegalCommand => 5

/-- A field of `STATUS` put at its place: its lowest bit at position `lo` (R24). -/
def atBit {k : Nat} (v : BitVec k) (lo : Nat) : Word := v.setWidth 32 <<< lo

/-- `STATUS` as the host reads it: `BUSY` 0, `DONE` 1, `ERR` 2, `CAUSE` 7:4, `LASTOP` 11:8, every
other bit 0 (R24). -/
def statusWord (s : State) : Word :=
  atBit (BitVec.ofBool s.busy) 0 ||| atBit (BitVec.ofBool s.done) 1 |||
    atBit (BitVec.ofBool s.err) 2 ||| atBit (causeCode s.cause) 4 ||| atBit s.lastOp 8

/-- Bit 2 of a word written to `STATUS`, the write-1-to-clear bit of `ERR` (R24, R47). -/
def clearsError (v : Word) : Bool := v.getLsbD 2

end Sys2Proof.Machine
end

