-- ==== Sys2Proof/Machine/Operands.lean ====
section
/-!
DEFINITION. Reading an operand and writing a result as integers, and the division of the spec
(`spec/00_scope.md` R7, R8, R11; `spec/30_encoding.md` R62). Operands come from the latches.
-/

namespace Sys2Proof.Machine

/-- `u32(b)`, in `[0, 2^32)` (R7). -/
def u32 (b : Word) : Nat := b.toNat

/-- `s32(b)`, two's complement, in `[-2^31, 2^31)` (R7). -/
def s32 (b : Word) : Int := if b.getLsbD 31 then (b.toNat : Int) - 2 ^ 32 else b.toNat

/-- `wrap32(v)`: the pattern `b` with `u32(b) = v mod 2^32`, the residue being non-negative (R7). -/
def wrap32 (v : Int) : Word := BitVec.ofNat 32 (v % 2 ^ 32).toNat

/-- `tdiv(a, b) = sign(a)*sign(b)*floor(|a| / |b|)`: the quotient rounded toward zero (R8). -/
def tdiv (a b : Int) : Int := a.sign * b.sign * ((a.natAbs / b.natAbs : Nat) : Int)

/-- `trem(a, b) = a - b*tdiv(a, b)`: zero or of the sign of `a` (R8). -/
def trem (a b : Int) : Int := a - b * tdiv a b

/-- How many operands, from `OP0` on, a command reads (`spec/30_encoding.md` R62). -/
def operandCount (i : Instr) : Nat :=
  match i with
  | .msb32 => 1
  | .npow2 => 1
  | .eea => 2
  | .invm => 2
  | .mn1 => 1
  | .mr1 => 1
  | .mredc => 4
  | .mexp => 3
  | .powm => 3

/-- The outcome of a command whose one result goes to `RES0` (`spec/30_encoding.md` R62). -/
def deliverRes0 (v : Except Cause Int) : CommandResult :=
  match v with
  | .ok v => .ok [(.res0, wrap32 v)]
  | .error c => .err c

end Sys2Proof.Machine
end

