-- ==== Sys2Proof/Machine/Ops.lean ====
section
/-!
DEFINITION. The transitions of the block, each one atomic (`spec/20_memory.md` R49): the host's
reads and writes, the acceptance of a command, the completion of a command, taking an error and
clearing it, and reset. The engine's step is put together in `Machine/Engine.lean`.
-/

namespace Sys2Proof.Machine

/-- TAKING AN ERROR, the block's only exception (`spec/60_exceptions.md` R131): `BUSY <- 0`,
`ERR <- 1`, `CAUSE <- code`; `DONE`, `LASTOP`, `OP` and `RES` are left alone. -/
def raiseError (c : Cause) (s : State) : State :=
  { s with busy := false, err := true, cause := some c }

/-- RETURN FROM AN ERROR (`spec/60_exceptions.md` R136): with `ERR = 1`, `ERR <- 0` and `CAUSE <- 0`;
with `ERR = 0` nothing changes. -/
def clearError (s : State) : State :=
  if s.err then { s with err := false, cause := none } else s

/-- `RES[j] <- v` (`spec/00_scope.md` R11). -/
def writeResult (r : Results) (j : ResultReg) (v : Word) : Results :=
  match j with
  | .res0 => { r with res0 := v }
  | .res1 => { r with res1 := v }
  | .res2 => { r with res2 := v }

/-- The result writes of one command, in order (`spec/30_encoding.md` R66). -/
def writeResults (r : Results) (writes : List (ResultReg × Word)) : Results :=
  match writes with
  | [] => r
  | (j, v) :: rest => writeResults (writeResult r j v) rest

/-- Completion with an outcome (`spec/30_encoding.md` R66): on `Ok` the writes, `BUSY <- 0` and
`DONE <- 1`; on `Err` the error is taken (R131). -/
def complete (out : CommandResult) (s : State) : State :=
  match out with
  | .ok writes => { s with res := writeResults s.res writes, busy := false, done := true }
  | .err c => raiseError c s

/-- Acceptance of a legal word (`spec/30_encoding.md` R63). -/
def acceptCommand (w : Word) (s : State) : State :=
  { s with lat := s.op, lastOp := opcodeField w, done := false, busy := true }

/-- An illegal word (`spec/30_encoding.md` R64): `LASTOP` and `DONE` are written and
`IllegalCommand` is taken. -/
def rejectCommand (w : Word) (s : State) : State :=
  raiseError .illegalCommand { s with lastOp := opcodeField w, done := false }

/-- Command write (`spec/20_memory.md` R46): ignored while `BUSY = 1` or `ERR = 1`
(`spec/60_exceptions.md` R134). -/
def writeCommand (w : Word) (s : State) : State :=
  if s.busy || s.err then s
  else
    match decode w with
    | .ok _ => acceptCommand w s
    | .error _ => rejectCommand w s

/-- Status write (`spec/20_memory.md` R47): only bit 2 of the word matters. -/
def writeStatus (v : Word) (s : State) : State :=
  if clearsError v then clearError s else s

/-- `HostRead(i)` (`spec/20_memory.md` R43); `none` for an index outside 0..8, which is not an
access to the block (R41). -/
def hostRead (i : Nat) (s : State) : Option Word :=
  match i with
  | 0 => some 0
  | 1 => some (statusWord s)
  | 2 => some s.op.op0
  | 3 => some s.op.op1
  | 4 => some s.op.op2
  | 5 => some s.op.op3
  | 6 => some s.res.res0
  | 7 => some s.res.res1
  | 8 => some s.res.res2
  | _ => none

/-- `HostWrite(i, v)` (`spec/20_memory.md` R44 to R48). Result registers ignore writes (R48); an
index outside 0..8 leaves the block's state as it is (R41). -/
def hostWrite (i : Nat) (v : Word) (s : State) : State :=
  match i with
  | 0 => writeCommand v s
  | 1 => writeStatus v s
  | 2 => { s with op := { s.op with op0 := v } }
  | 3 => { s with op := { s.op with op1 := v } }
  | 4 => { s with op := { s.op with op2 := v } }
  | 5 => { s with op := { s.op with op3 := v } }
  | _ => s

/-- What the host sees for a read: the block's answer, or outside indices 0..8 the platform's free
value (R41; log entry 5). -/
def readValue (i : Nat) (s : State) : Word :=
  match hostRead i s with
  | some v => v
  | none => Config.platformRead i s.reads.length

/-- A host read as a transition: the block is unchanged (R43), the value is recorded for the host. -/
def hostReads (i : Nat) (s : State) : State := { s with reads := readValue i s :: s.reads }

/-- Reset (`spec/70_reset_and_hazards.md` R150): the block goes to its reset state and a running
command is abandoned; the schedule and the host's record lie outside the block. -/
def resetBlock (s : State) : State :=
  { State.reset with events := s.events, reads := s.reads }

end Sys2Proof.Machine
end

