-- ==== Sys2Proof/Machine/BinaryExp.lean ====
section
/-!
DEFINITION. The Binary Exponentiation unit: `POWM` (`spec/44_binary_exp.md`).
-/

namespace Sys2Proof.Machine

/-- The loop of R125 over the bits of `d`, lowest first: the conditional multiply uses the value of
`a` before this iteration's squaring. The first argument bounds the iterations (log entry 15). -/
def powmLoop (n : Nat) : Nat → Nat → Nat → Nat → Nat
  | 0, acc, _, _ => acc
  | fuel + 1, acc, a, d =>
    if d = 0 then acc
    else
      powmLoop n fuel (if d &&& 1 = 1 then (acc * a) % n else acc) ((a * a) % n) (d >>> 1)

/-- `powm(a, d, n)` (R125). -/
def powm (a d n : Int) : Except Cause Int :=
  if n ≤ 0 then .error .modulusNonPositive
  else if a < 0 ∨ d < 0 then .error .operandRange
  else .ok (powmLoop n.toNat d.toNat 1 a.toNat d.toNat : Int)

/-- The outcome of `POWM` (R126): the modulus is read signed. -/
def powmResult (l : Operands) : CommandResult :=
  deliverRes0 (powm (s32 l.op0) (s32 l.op1) (s32 l.op2))

/-- `POWM` completes (R126). -/
def execPowm (s : State) : Host.Outcome State Fault Refusal :=
  .next (complete (powmResult s.lat) s)

end Sys2Proof.Machine
end

