-- ==== Sys2Proof/Machine/BitUtilities.lean ====
section
/-!
DEFINITION. The Bit Utilities unit: `MSB32` and `NPOW2` (`spec/40_bit_utilities.md`).
-/

namespace Sys2Proof.Machine

/-- `msb32(n)`: the `k` with `2^k <= n < 2^(k+1)`; it has no value at 0 (R80, U1). -/
def msb32 (n : Nat) : Option Nat := if n = 0 then none else some n.log2

/-- `next_pow2(n)` by bit smearing in 32-bit unsigned arithmetic (R82). -/
def nextPow2 (n : Nat) : Nat :=
  let s := n ||| (n >>> 1)
  let s := s ||| (s >>> 2)
  let s := s ||| (s >>> 4)
  let s := s ||| (s >>> 8)
  let s := s ||| (s >>> 16)
  (s + 1) % 2 ^ 32

/-- The outcome of `MSB32` (R81). -/
def msb32Result (l : Operands) : CommandResult :=
  match msb32 (u32 l.op0) with
  | some k => deliverRes0 (.ok (k : Int))
  | none => .err .bitScanOfZero

/-- The outcome of `NPOW2` (R83). -/
def npow2Result (l : Operands) : CommandResult :=
  deliverRes0 (.ok (nextPow2 (u32 l.op0) : Int))

/-- `MSB32` completes (R81). -/
def execMsb32 (s : State) : Host.Outcome State Fault Refusal :=
  .next (complete (msb32Result s.lat) s)

/-- `NPOW2` completes (R83). -/
def execNpow2 (s : State) : Host.Outcome State Fault Refusal :=
  .next (complete (npow2Result s.lat) s)

end Sys2Proof.Machine
end

