-- ==== Sys2Proof/Machine/Euclid.lean ====
section
/-!
DEFINITION. The Extended Euclidean Solver and the Modular Inverse unit: `EEA` and `INVM`
(`spec/41_euclid_inverse.md`).
-/

namespace Sys2Proof.Machine

/-- The solver's triple `(d, x, y)` (R91). -/
structure Bezout where
  d : Int
  x : Int
  y : Int
  deriving DecidableEq, Repr

/-- The recursion of R91 on a bound for its depth; the bound is never felt when it is at least
`|b|`, since `|trem(a, b)| < |b|` (R92 (a); log entry 15). -/
def eeaFuel : Nat → Int → Int → Bezout
  | 0, a, _ => { d := a, x := 1, y := 0 }
  | fuel + 1, a, b =>
    if b = 0 then { d := a, x := 1, y := 0 }
    else
      let r := eeaFuel fuel b (trem a b)
      { d := r.d, x := r.y, y := r.x - tdiv a b * r.y }

/-- `eea(a, b)` over Z (R91). -/
def eea (a b : Int) : Bezout := eeaFuel b.natAbs a b

/-- `inverse_m(a, m)` over Z (R94): the modulus is checked first, then the solver's signed `d`. -/
def inverseM (a m : Int) : Except Cause Int :=
  if m ≤ 0 then .error .modulusNonPositive
  else
    let r := eea a m
    if r.d ≠ 1 then .error .noModularInverseExists
    else if r.x < 0 then .ok (r.x + m)
    else .ok r.x

/-- The outcome of `EEA` (R93). -/
def eeaResult (l : Operands) : CommandResult :=
  let r := eea (s32 l.op0) (s32 l.op1)
  .ok [(.res0, wrap32 r.d), (.res1, wrap32 r.x), (.res2, wrap32 r.y)]

/-- The outcome of `INVM` (R96). -/
def invmResult (l : Operands) : CommandResult :=
  deliverRes0 (inverseM (s32 l.op0) (s32 l.op1))

/-- `EEA` completes (R93). -/
def execEea (s : State) : Host.Outcome State Fault Refusal :=
  .next (complete (eeaResult s.lat) s)

/-- `INVM` completes (R96). -/
def execInvm (s : State) : Host.Outcome State Fault Refusal :=
  .next (complete (invmResult s.lat) s)

end Sys2Proof.Machine
end

