-- ==== Sys2Proof/Machine/MontgomeryParams.lean ====
section
/-!
DEFINITION. The Montgomery Parameter Derivation unit: `MN1` and `MR1`
(`spec/42_montgomery_params.md`). No parameter is cached (`spec/10_state.md` R31).
-/

namespace Sys2Proof.Machine

/-- `radix(n)` (R100): the power of two above `n`, for a modulus that is a positive signed 32-bit
integer. -/
def radix (n : Nat) : Except Cause Nat :=
  if n = 0 ∨ 2 ^ 31 ≤ n then .error .modulusNonPositive else .ok (nextPow2 n)

/-- `montgomery_n1(n) = | inverse_m(n, r) - r |` (R101); `r` keeps its value as an integer (R100). -/
def montgomeryN1 (n : Nat) : Except Cause Int :=
  match radix n with
  | .error c => .error c
  | .ok r =>
    match inverseM n r with
    | .error c => .error c
    | .ok inv => .ok ((inv - r).natAbs : Int)

/-- `montgomery_r1(n) = inverse_m(r, n)` (R103). -/
def montgomeryR1 (n : Nat) : Except Cause Int :=
  match radix n with
  | .error c => .error c
  | .ok r => inverseM r n

/-- The outcome of `MN1` (R102). -/
def mn1Result (l : Operands) : CommandResult := deliverRes0 (montgomeryN1 (u32 l.op0))

/-- The outcome of `MR1` (R104). -/
def mr1Result (l : Operands) : CommandResult := deliverRes0 (montgomeryR1 (u32 l.op0))

/-- `MN1` completes (R102). -/
def execMn1 (s : State) : Host.Outcome State Fault Refusal :=
  .next (complete (mn1Result s.lat) s)

/-- `MR1` completes (R104). -/
def execMr1 (s : State) : Host.Outcome State Fault Refusal :=
  .next (complete (mr1Result s.lat) s)

end Sys2Proof.Machine
end

