-- ==== Sys2Proof/Machine/Montgomery.lean ====
section
/-!
DEFINITION. The Montgomery Reduction/Exponentiation unit: `MREDC` and `MEXP`
(`spec/43_montgomery_reduce_exp.md`). Bit operations act on naturals only (`spec/00_scope.md` R10).
-/

namespace Sys2Proof.Machine

/-- `redc(a, k, n, n1)` (R110): exact products, and one subtraction when `t >= n`
(`spec/90_conflicts.md` C1). -/
def redc (a k n n1 : Nat) : Nat :=
  let r := 2 ^ k
  let m := ((a &&& (r - 1)) * n1) % r
  let t := (a + m * n) >>> k
  if n ≤ t then t - n else t

/-- `MREDC`'s checks and its reduction (R112): modulus first, then the operand ranges. -/
def montgomeryReduce (a k n n1 : Int) : Except Cause Int :=
  if n ≤ 0 then .error .modulusNonPositive
  else if a < 0 ∨ k < 0 ∨ 31 < k ∨ n1 < 0 then .error .operandRange
  else .ok (redc a.toNat k.toNat n.toNat n1.toNat : Int)

/-- The loop of R113 over the bits of `d`, lowest first, with the accumulator `s` and the running
square `xm`, on a bound for the number of iterations that is never felt when it is at least `d`
(log entry 15). -/
def montgomeryLoop (k n n1 : Nat) : Nat → Nat → Nat → Nat → Nat
  | 0, s, _, _ => s
  | fuel + 1, s, xm, d =>
    if d = 0 then s
    else
      montgomeryLoop k n n1 fuel
        (if d &&& 1 = 1 then redc (s * xm) k n n1 else s)
        (redc (xm * xm) k n n1)
        (d >>> 1)

/-- `montgomery(x, d, n)` (R113), with the checks in its order: modulus, operand range, and the
inverse inside the parameter derivation. `msb32` is reached with `n >= 1` only. -/
def montgomery (x d : Int) (n : Nat) : Except Cause Int :=
  match radix n with
  | .error c => .error c
  | .ok r =>
    if x < 0 ∨ d < 0 then .error .operandRange
    else
      match msb32 n, montgomeryN1 n, montgomeryR1 n with
      | none, _, _ => .error .bitScanOfZero
      | some _, .error c, _ => .error c
      | some _, .ok _, .error c => .error c
      | some b, .ok n1, .ok r1 =>
        let s := (1 * r) % n
        let xm := (x.toNat * r) % n
        let s := montgomeryLoop (b + 1) n n1.toNat d.toNat s xm d.toNat
        .ok (((s : Int) * r1) % n)

/-- The outcome of `MREDC` (R112). -/
def mredcResult (l : Operands) : CommandResult :=
  deliverRes0 (montgomeryReduce (s32 l.op0) (s32 l.op1) (s32 l.op2) (s32 l.op3))

/-- The outcome of `MEXP` (R115): the modulus is read unsigned. -/
def mexpResult (l : Operands) : CommandResult :=
  deliverRes0 (montgomery (s32 l.op0) (s32 l.op1) (u32 l.op2))

/-- `MREDC` completes (R112). -/
def execMredc (s : State) : Host.Outcome State Fault Refusal :=
  .next (complete (mredcResult s.lat) s)

/-- `MEXP` completes (R115). -/
def execMexp (s : State) : Host.Outcome State Fault Refusal :=
  .next (complete (mexpResult s.lat) s)

end Sys2Proof.Machine
end

