-- ==== Sys2Proof/Machine/Dispatch.lean ====
section
/-!
DEFINITION. The completion of each command, one arm per constructor (`spec/30_encoding.md` R66:
"computed by the command rule that rule R61 names for opcode `LASTOP`").
-/

namespace Sys2Proof.Machine

def exec (i : Instr) (s : State) : Host.Outcome State Fault Refusal :=
  match i with
  | .msb32 => Sys2Proof.Machine.execMsb32 s
  | .npow2 => Sys2Proof.Machine.execNpow2 s
  | .eea => Sys2Proof.Machine.execEea s
  | .invm => Sys2Proof.Machine.execInvm s
  | .mn1 => Sys2Proof.Machine.execMn1 s
  | .mr1 => Sys2Proof.Machine.execMr1 s
  | .mredc => Sys2Proof.Machine.execMredc s
  | .mexp => Sys2Proof.Machine.execMexp s
  | .powm => Sys2Proof.Machine.execPowm s

end Sys2Proof.Machine
end

