-- ==== Sys2Proof/Machine/Engine.lean ====
section
/-!
DEFINITION. The engine's step and the next transition of the machine
(`spec/20_memory.md` R49, R50; `spec/30_encoding.md` R66). `Machine/Step.lean` only calls this file.
-/

namespace Sys2Proof.Machine

/-- The engine's turn (R66): with `BUSY = 1` it runs the command in `LASTOP` to its completion;
with `BUSY = 0` it has no step and nothing changes (`spec/10_state.md` R25). -/
def engineStep (s : State) : Host.Outcome State Fault Refusal :=
  if s.busy then
    match decodeOpcode s.lastOp with
    | some i => exec i s
    | none => .fault (.runningOpcodeIllegal s.lastOp)
  else .next s

/-- One scheduled transition. -/
def runEvent (e : Event) (s : State) : Host.Outcome State Fault Refusal :=
  match e with
  | .read i => .next (hostReads i s)
  | .write i v => .next (hostWrite i v s)
  | .irregular => .refused .irregularAccess
  | .engine => engineStep s
  | .reset => .next (resetBlock s)

/-- The machine's next transition: the first of the schedule; once nothing is scheduled the engine
moves, so that every accepted command completes (`spec/70_reset_and_hazards.md` R158), and an idle
block waits (`spec/10_state.md` R27). -/
def nextTransition (s : State) : Host.Outcome State Fault Refusal :=
  match s.events with
  | [] => engineStep s
  | e :: rest => runEvent e { s with events := rest }

/-- The state whose very next transition runs the word `w` as a command: a legal word has just been
accepted from an idle block and the engine moves next; an illegal word is about to be written to
`CMD` of an idle block (log entry 7). -/
def placeCommand (w : Word) (s : State) : State :=
  let idle := { s with busy := false, err := false, cause := none }
  match decode w with
  | .ok _ => { acceptCommand w idle with events := .engine :: s.events }
  | .error _ => { idle with events := .write 0 w :: s.events }

end Sys2Proof.Machine
end

