-- ==== Sys2Proof/Machine/HostNotation.lean ====
section
/-!
DEFINITION. The host notation of `spec/30_encoding.md` R68, R69: the lines of a host access sequence
as transactions on register indices (`spec/20_memory.md` R41), and the pseudo-operations.
-/

namespace Sys2Proof.Machine

/-- The registers by name (R41). -/
inductive Register where
  | cmd
  | status
  | op0
  | op1
  | op2
  | op3
  | res0
  | res1
  | res2
  deriving DecidableEq, Repr

/-- The index of a register (R41). -/
def registerIndex (r : Register) : Nat :=
  match r with
  | .cmd => 0
  | .status => 1
  | .op0 => 2
  | .op1 => 3
  | .op2 => 4
  | .op3 => 5
  | .res0 => 6
  | .res1 => 7
  | .res2 => 8

/-- One line of the notation (R68): `wr OPk, v`; `cmd MNEMONIC`; `cmd.raw w`; `rd REG`;
`wr STATUS, v`. -/
inductive Line where
  | wrOp (k : Fin 4) (v : Word)
  | cmd (i : Instr)
  | cmdRaw (w : Word)
  | rd (r : Register)
  | wrStatus (v : Word)
  deriving DecidableEq, Repr

/-- The transaction a line stands for (R68). -/
def lineEvent (l : Line) : Event :=
  match l with
  | .wrOp k v => .write (2 + k.val) v
  | .cmd i => .write 0 (encode i)
  | .cmdRaw w => .write 0 w
  | .rd r => .read (registerIndex r)
  | .wrStatus v => .write 1 v

/-- `clrerr` (R69). -/
def clrerr : List Line := [.wrStatus 0x00000004#32]

/-- The operand writes of `call` for the first `k` operands (R69). -/
def operandLines (k : Nat) (l : Operands) : List Line :=
  [.wrOp 0 l.op0, .wrOp 1 l.op1, .wrOp 2 l.op2, .wrOp 3 l.op3].take k

/-- `wait` (R69): the host reads `STATUS` until `BUSY` is 0. How often it finds `BUSY = 1` is the
latency, which is open (`spec/70_reset_and_hazards.md` R158), so the number of those reads is an
argument; then the engine completes, and the next read ends the wait. -/
def waitEvents (polls : Nat) : List Event :=
  List.replicate polls (.read 1) ++ [.engine, .read 1]

/-- `call MNEMONIC(v0, ..., vk)` (R69): the operand writes, the command, and a wait. -/
def callEvents (i : Instr) (l : Operands) (polls : Nat) : List Event :=
  (operandLines (operandCount i) l ++ [Line.cmd i]).map lineEvent ++ waitEvents polls

end Sys2Proof.Machine
end

