-- ==== Sys2Proof/Safety.lean ====
section
/-!
DEFINITION. The vocabulary claims are stated in: the outcome of a command as a function of its
latches (`spec/00_scope.md` R12), agreement on the operands a command reads (`spec/30_encoding.md`
R62), the causes it may raise (`spec/60_exceptions.md` R130), the invariant of the block
(`spec/10_state.md` R25, R26), and several steps in a row.
-/

namespace Sys2Proof.Machine

/-- `exec(op, LAT[0..3])` of R12: the outcome the command's rule gives for these operands. -/
def commandResult (i : Instr) (l : Operands) : CommandResult :=
  match i with
  | .msb32 => msb32Result l
  | .npow2 => npow2Result l
  | .eea => eeaResult l
  | .invm => invmResult l
  | .mn1 => mn1Result l
  | .mr1 => mr1Result l
  | .mredc => mredcResult l
  | .mexp => mexpResult l
  | .powm => powmResult l

/-- Two sets of operand words agree on the first `k` operands. -/
def operandsAgree (k : Nat) (l m : Operands) : Prop :=
  (1 ≤ k → l.op0 = m.op0) ∧ (2 ≤ k → l.op1 = m.op1) ∧ (3 ≤ k → l.op2 = m.op2) ∧
    (4 ≤ k → l.op3 = m.op3)

/-- The table of R130 read by opcode: may a command with this opcode raise this cause?
`IllegalCommand` belongs to no command: any four bits may stand in `LASTOP` beside it (R26). -/
def causeAllowed (op : Nibble) (c : Cause) : Bool :=
  match c with
  | .modulusNonPositive => decide (4 ≤ op.toNat ∧ op.toNat ≤ 9)
  | .noModularInverseExists =>
    decide (op.toNat = 4 ∨ op.toNat = 5 ∨ op.toNat = 6 ∨ op.toNat = 8)
  | .bitScanOfZero => decide (op.toNat = 1)
  | .operandRange => decide (7 ≤ op.toNat ∧ op.toNat ≤ 9)
  | .illegalCommand => true

/-- `BUSY`, `DONE` and `ERR` are pairwise exclusive (R25). -/
abbrev State.flagsExclusive (s : State) : Prop :=
  (s.busy && s.done) = false ∧ (s.busy && s.err) = false ∧ (s.done && s.err) = false

/-- `CAUSE` is 0 exactly when `ERR = 0`, and otherwise names an error the command in `LASTOP` can
raise, or `IllegalCommand` (R26, R130). -/
abbrev State.causeMatches (s : State) : Prop :=
  (s.cause.isSome = s.err) ∧ (s.cause.all (causeAllowed s.lastOp)) = true

/-- While `BUSY = 1` or `DONE = 1`, `LASTOP` is the opcode of a command (R26, R135). -/
abbrev State.lastOpNamesCommand (s : State) : Prop :=
  (s.busy || s.done) = true → (decodeOpcode s.lastOp).isSome = true

/-- The block's invariant (R25, R26). -/
abbrev State.Inv (s : State) : Prop :=
  s.flagsExclusive ∧ s.causeMatches ∧ s.lastOpNamesCommand

/-- What `STATUS` says of the last command is true of the latches it was accepted with: with
`DONE = 1`, `RES` holds its result writes; with an error of its own, that is the error its rule
gives (R135). The latches keep their values until the next acceptance, which clears `DONE`. -/
def State.outcomeCurrent (s : State) : Prop :=
  (s.done = true → ∃ i ws r, s.lastOp = opcodeOf i ∧ commandResult i s.lat = .ok ws ∧
    s.res = writeResults r ws) ∧
  (∀ c, s.cause = some c → c ≠ .illegalCommand →
    ∃ i, s.lastOp = opcodeOf i ∧ commandResult i s.lat = .err c)

/-- A whole-register read or write by the host (R43, R44). -/
def Event.isHostAccess (e : Event) : Bool :=
  match e with
  | .read _ => true
  | .write _ _ => true
  | .irregular => false
  | .engine => false
  | .reset => false

/-- A transition other than a reset and an access the model refuses. -/
def Event.isOrdinary (e : Event) : Bool :=
  match e with
  | .read _ => true
  | .write _ _ => true
  | .irregular => false
  | .engine => true
  | .reset => false

/-- It is the engine's turn: the schedule names it, or nothing is scheduled (R50, R158). -/
def State.enginesTurn (s : State) : Prop :=
  s.events = [] ∨ ∃ rest, s.events = .engine :: rest

/-- `k` steps in a row, stopping at the first that answers no next state. -/
def runSteps (k : Nat) (s : State) : Host.Outcome State Fault Refusal :=
  match k with
  | 0 => .next s
  | k + 1 =>
    match step s with
    | .next t => runSteps k t
    | .fault r => .fault r
    | .refused r => .refused r

end Sys2Proof.Machine
end

