-- ==== Sys2Proof/Certificates/Slice0/Obligations.lean ====
section
/-!
DEFINITION. What is claimed of the model. Each docstring cites the rule of `spec/` it formalises.
-/

open Sys2Proof Sys2Proof.Machine

/-! ## Numbers -/

/-- R7 (`00_scope.md`): `u32`, `s32` and `wrap32`. -/
def Obligations.WordConversions : Prop :=
  (∀ b : Word, u32 b < 2 ^ 32 ∧ (u32 b : Int) = (Finset.range 32).sum (fun i => if b.getLsbD i then (2 : Int) ^ i else 0)) ∧
  (∀ b : Word, (b.getLsbD 31 = false → s32 b = u32 b) ∧
    (b.getLsbD 31 = true → s32 b = (u32 b : Int) - 2 ^ 32) ∧
    -2 ^ 31 ≤ s32 b ∧ s32 b < 2 ^ 31) ∧
  (∀ v : Int, (2 ^ 32 : Int) ∣ v - u32 (wrap32 v)) ∧
  (∀ v : Int, -2 ^ 31 ≤ v → v < 2 ^ 31 → s32 (wrap32 v) = v) ∧
  (∀ v : Int, 0 ≤ v → v < 2 ^ 32 → (u32 (wrap32 v) : Int) = v)

/-- R8 (`00_scope.md`): the quotient is rounded toward zero, and the remainder goes with it. -/
def Obligations.TruncatingDivision : Prop :=
  (∀ a b : Int, b ≠ 0 →
    tdiv a b = a.sign * b.sign * ((a.natAbs / b.natAbs : Nat) : Int) ∧
    trem a b = a - b * tdiv a b ∧
    (trem a b).natAbs < b.natAbs ∧
    (trem a b = 0 ∨ (trem a b).sign = a.sign)) ∧
  (tdiv 7 2 = 3 ∧ trem 7 2 = 1) ∧ (tdiv (-7) 2 = -3 ∧ trem (-7) 2 = -1) ∧
  (tdiv 7 (-2) = -3 ∧ trem 7 (-2) = 1) ∧ (tdiv (-7) (-2) = 3 ∧ trem (-7) (-2) = -1) ∧
  tdiv (-2 ^ 31) (-1) = 2 ^ 31 ∧ trem (-2 ^ 31) (-1) = 0

/-! ## Encoding -/

/-- The opcode map of R61 (`30_encoding.md`), word by word. -/
def Obligations.OpcodeMapWords : Prop :=
  decode 0x00000001#32 = .ok .msb32 ∧ decode 0x00000002#32 = .ok .npow2 ∧
  decode 0x00000003#32 = .ok .eea ∧ decode 0x00000004#32 = .ok .invm ∧
  decode 0x00000005#32 = .ok .mn1 ∧ decode 0x00000006#32 = .ok .mr1 ∧
  decode 0x00000007#32 = .ok .mredc ∧ decode 0x00000008#32 = .ok .mexp ∧
  decode 0x00000009#32 = .ok .powm

/-- R61 (`30_encoding.md`): a word is a command iff bits 31:4 are 0 and bits 3:0 are 1 to 9, that is
iff it is one of the nine words of the map, and it is then the command the map names; every other
word is rejected. -/
def Obligations.LegalWordsAreExactlyNine : Prop :=
  ∀ w : Word,
    ((∃ i, decode w = .ok i) ↔
      (w.extractLsb' 4 28 = 0 ∧ 1 ≤ (w.extractLsb' 0 4).toNat ∧ (w.extractLsb' 0 4).toNat ≤ 9)) ∧
    ((∃ i, decode w = .ok i) ↔ (1 ≤ w.toNat ∧ w.toNat ≤ 9)) ∧
    ((∃ e, decode w = .error e) ↔ ¬ (1 ≤ w.toNat ∧ w.toNat ≤ 9)) ∧
    (wordLegal w = true ↔ ∃ i, decode w = .ok i) ∧
    (decode w = .ok .msb32 ↔ w.toNat = 1) ∧ (decode w = .ok .npow2 ↔ w.toNat = 2) ∧
    (decode w = .ok .eea ↔ w.toNat = 3) ∧ (decode w = .ok .invm ↔ w.toNat = 4) ∧
    (decode w = .ok .mn1 ↔ w.toNat = 5) ∧ (decode w = .ok .mr1 ↔ w.toNat = 6) ∧
    (decode w = .ok .mredc ↔ w.toNat = 7) ∧ (decode w = .ok .mexp ↔ w.toNat = 8) ∧
    (decode w = .ok .powm ↔ w.toNat = 9)

/-- R60, R61: the decoder and the encoder agree in both directions, on the opcode alone too, and the
opcode table's numbering of the bits reaches the same decoder. -/
def Obligations.DecodeEncodeAgree : Prop :=
  (∀ i : Instr, i.wellFormed = true →
    decode (encode i) = .ok i ∧ decodeOpcode (opcodeOf i) = some i ∧
    decodeTableWord 32 (encode i).toNat = some i) ∧
  (∀ (w : Word) (i : Instr), decode w = .ok i → w = encode i) ∧
  (∀ (op : Nibble) (i : Instr), decodeOpcode op = some i → op = opcodeOf i)

/-! ## Reset and the invariant -/

/-- R32 (`10_state.md`): every host-visible register reads 0 after reset, and every field of
`STATUS` is 0. The latches are left out: R32 leaves them unspecified. -/
def Obligations.ResetRegistersReadZero : Prop :=
  (∀ i ≤ 8, hostRead i State.reset = some 0) ∧
  State.reset.busy = false ∧ State.reset.done = false ∧ State.reset.err = false ∧
  State.reset.cause = none ∧ State.reset.lastOp = 0

/-- R150 (`70_reset_and_hazards.md`): a reset in any state clears all of `OP`, `RES` and `STATUS`
and abandons a running command: the engine's next turn changes nothing. The block then accepts the
first legal `CMD` write. -/
def Obligations.ResetAbandonsTheRunningCommand : Prop :=
  ∀ (s : State) (rest : List Event), s.events = .reset :: rest →
    ∃ t, step s = .next t ∧
      (∀ i ≤ 8, hostRead i t = some 0) ∧
      t.busy = false ∧ t.done = false ∧ t.err = false ∧ t.cause = none ∧ t.lastOp = 0 ∧
      t.events = rest ∧ t.reads = s.reads ∧
      (∀ u, step { t with events := [.engine] } = .next u → u = { t with events := [] }) ∧
      (∀ i : Instr, ∃ u, step { t with events := [.write 0 (encode i)] } = .next u ∧
        u.busy = true ∧ u.lastOp = opcodeOf i)

/-- R25, R26 (`10_state.md`): the invariant holds after reset. -/
def Obligations.InvariantHoldsAtReset : Prop := State.reset.Inv

/-- R25, R26 (`10_state.md`), R130 (`60_exceptions.md`): every transition keeps the invariant: the
three flags stay pairwise exclusive, `CAUSE` is 0 exactly when `ERR = 0` and otherwise names an
error the command in `LASTOP` can raise, and `LASTOP` names a command while `BUSY` or `DONE`. -/
def Obligations.EveryStepKeepsTheInvariant : Prop :=
  ∀ s t : State, s.Inv → step s = .next t → t.Inv

/-- From a state that meets the invariant no step faults, and the only step that is refused is a bus
access that is not one whole register (R42, R66). -/
def Obligations.OnlyIrregularAccessesStop : Prop :=
  ∀ s : State, s.Inv →
    (∀ r, step s ≠ .fault r) ∧
    (∀ r, step s = .refused r → ∃ rest, s.events = .irregular :: rest)

/-! ## STATUS and the host's accesses -/

/-- R24 (`10_state.md`): the layout of `STATUS`, its reserved bits, the legal values of `CAUSE`, and
what a host write to it can change. -/
def Obligations.StatusLayout : Prop :=
  ∀ s : State,
    (statusWord s).getLsbD 0 = s.busy ∧ (statusWord s).getLsbD 1 = s.done ∧
    (statusWord s).getLsbD 2 = s.err ∧ (statusWord s).getLsbD 3 = false ∧
    (statusWord s).extractLsb' 4 4 = causeCode s.cause ∧
    (statusWord s).extractLsb' 8 4 = s.lastOp ∧
    (statusWord s).extractLsb' 12 20 = 0 ∧
    (causeCode s.cause).toNat ≤ 5 ∧
    (∀ v : Word, ∃ e c, hostWrite 1 v s = { s with err := e, cause := c }) ∧
    (∀ v w : Word, v.getLsbD 2 = w.getLsbD 2 → hostWrite 1 v s = hostWrite 1 w s)

/-- R43 (`20_memory.md`): what a read of each register returns, and that it changes no state of the
block. -/
def Obligations.HostReadReturnsTheRegister : Prop :=
  ∀ (s : State) (i : Nat) (rest : List Event), s.events = .read i :: rest → i ≤ 8 →
    ∃ v, step s = .next { s with events := rest, reads := v :: s.reads } ∧
      (i = 0 → v = 0) ∧ (i = 1 → v = statusWord s) ∧
      (i = 2 → v = s.op.op0) ∧ (i = 3 → v = s.op.op1) ∧
      (i = 4 → v = s.op.op2) ∧ (i = 5 → v = s.op.op3) ∧
      (i = 6 → v = s.res.res0) ∧ (i = 7 → v = s.res.res1) ∧ (i = 8 → v = s.res.res2)

/-- R45 (`20_memory.md`): an operand write stores the word in every state and changes nothing else. -/
def Obligations.OperandWriteStoresTheWord : Prop :=
  ∀ (s : State) (v : Word) (rest : List Event),
    (s.events = .write 2 v :: rest →
      step s = .next { s with events := rest, op := { s.op with op0 := v } }) ∧
    (s.events = .write 3 v :: rest →
      step s = .next { s with events := rest, op := { s.op with op1 := v } }) ∧
    (s.events = .write 4 v :: rest →
      step s = .next { s with events := rest, op := { s.op with op2 := v } }) ∧
    (s.events = .write 5 v :: rest →
      step s = .next { s with events := rest, op := { s.op with op3 := v } })

/-- R48 (`20_memory.md`): a write to a result register changes nothing. -/
def Obligations.ResultWriteIsIgnored : Prop :=
  ∀ (s : State) (i : Nat) (v : Word) (rest : List Event),
    s.events = .write i v :: rest → 6 ≤ i → i ≤ 8 → step s = .next { s with events := rest }

/-- R47 (`20_memory.md`), R136 (`60_exceptions.md`): a status write with bit 2 set clears `ERR` and
`CAUSE` when `ERR = 1`; every other status write changes nothing. In a state of the invariant `BUSY`
and `DONE` are 0 while `ERR = 1`, so clearing leaves the block idle, and the next command is
accepted. -/
def Obligations.StatusWriteClearsTheError : Prop :=
  ∀ (s : State) (v : Word) (rest : List Event), s.events = .write 1 v :: rest →
    (v.getLsbD 2 = true → s.err = true →
      step s = .next { s with events := rest, err := false, cause := none }) ∧
    ((v.getLsbD 2 = false ∨ s.err = false) → step s = .next { s with events := rest }) ∧
    (s.Inv → s.err = true → s.busy = false ∧ s.done = false) ∧
    (s.Inv → v.getLsbD 2 = true → s.err = true → ∀ (i : Instr) (more : List Event),
      rest = .write 0 (encode i) :: more →
      ∃ t, runSteps 2 s = .next t ∧ t.busy = true ∧ t.lastOp = opcodeOf i ∧ t.events = more)

/-- R63 (`30_encoding.md`): the acceptance of a legal word. -/
def Obligations.LegalWordIsAccepted : Prop :=
  ∀ (s : State) (w : Word) (rest : List Event), s.events = .write 0 w :: rest →
    s.busy = false → s.err = false → 1 ≤ w.toNat → w.toNat ≤ 9 →
    step s = .next { s with
      events := rest, lat := s.op, lastOp := w.extractLsb' 0 4, done := false, busy := true }

/-- R64 (`30_encoding.md`): an illegal word raises `IllegalCommand` at the write. -/
def Obligations.IllegalWordRaises : Prop :=
  ∀ (s : State) (w : Word) (rest : List Event), s.events = .write 0 w :: rest →
    s.busy = false → s.err = false →
    (w.extractLsb' 4 28 ≠ 0 ∨ w.extractLsb' 0 4 = 0 ∨ 10 ≤ (w.extractLsb' 0 4).toNat) →
    step s = .next { s with
      events := rest, lastOp := w.extractLsb' 0 4, done := false, err := true,
      cause := some .illegalCommand }

/-- R134 (`60_exceptions.md`): while `BUSY = 1` or `ERR = 1` a command write changes nothing, while
operand writes are stored, registers are read, and a status write can clear the error; after an
error nothing changes until the host acts. -/
def Obligations.CommandWriteIsIgnoredWhileBusyOrInError : Prop :=
  ∀ (s : State) (rest : List Event), (s.busy = true ∨ s.err = true) →
    (∀ w, s.events = .write 0 w :: rest → step s = .next { s with events := rest }) ∧
    (∀ v, s.events = .write 2 v :: rest →
      step s = .next { s with events := rest, op := { s.op with op0 := v } }) ∧
    (∀ v, s.events = .write 3 v :: rest →
      step s = .next { s with events := rest, op := { s.op with op1 := v } }) ∧
    (∀ v, s.events = .write 4 v :: rest →
      step s = .next { s with events := rest, op := { s.op with op2 := v } }) ∧
    (∀ v, s.events = .write 5 v :: rest →
      step s = .next { s with events := rest, op := { s.op with op3 := v } }) ∧
    (∀ i v, i ≤ 8 → hostRead i s = some v → s.events = .read i :: rest →
      step s = .next { s with events := rest, reads := v :: s.reads }) ∧
    (∀ v, s.events = .write 1 v :: rest → v.getLsbD 2 = true → s.err = true →
      step s = .next { s with events := rest, err := false, cause := none }) ∧
    (s.Inv → s.err = true → s.events = [] → step s = .next s)

/-- R41 (`20_memory.md`): an access outside indices 0..8 leaves the block's state as it is; what a
read shows the host is left open. -/
def Obligations.AccessOutsideTheRegistersChangesNothing : Prop :=
  ∀ (s : State) (i : Nat) (rest : List Event), 9 ≤ i →
    (∀ v, s.events = .write i v :: rest → step s = .next { s with events := rest }) ∧
    (s.events = .read i :: rest →
      ∃ v, step s = .next { s with events := rest, reads := v :: s.reads })

/-- R42 (`20_memory.md`): "a model refuses" a narrower, wider or misaligned access. -/
def Obligations.IrregularAccessIsRefused : Prop :=
  ∀ (s : State) (rest : List Event), s.events = .irregular :: rest →
    step s = .refused .irregularAccess

/-! ## The engine -/

/-- R66 (`30_encoding.md`): in a state with `BUSY = 1` the engine's turn is the completion of the
command whose opcode stands in `LASTOP`; its turn comes when the schedule names it, and whenever
nothing else is scheduled. -/
def Obligations.EngineRunsTheDecodedCommand : Prop :=
  ∀ (s : State) (i : Instr), s.busy = true → s.lastOp = opcodeOf i →
    (s.events = [] → step s = exec i s) ∧
    (∀ rest, s.events = .engine :: rest → step s = exec i { s with events := rest })

/-- A word placed by `withFetchWord` is run by the very next step: a legal word as its command, on
the operands then in `OP0`..`OP3`; an illegal word raises `IllegalCommand` (R63, R64, R66; log
entry 7). -/
def Obligations.PlacedWordIsRunNext : Prop :=
  (∀ (s : State) (i : Instr),
    step (s.withFetchWord 32 (encode i).toNat) =
      exec i { s with lat := s.op, lastOp := opcodeOf i, busy := true, done := false,
                      err := false, cause := none }) ∧
  (∀ (s : State) (w : Word), (∀ i, decode w ≠ .ok i) →
    step (s.withFetchWord 32 w.toNat) =
      .next { s with lastOp := w.extractLsb' 0 4, busy := false, done := false, err := true,
                     cause := some .illegalCommand })

/-- R25, R27 (`10_state.md`): with `BUSY = 0` the engine has no step; an idle block waits. -/
def Obligations.EngineHasNoStepUnlessBusy : Prop :=
  ∀ s : State, s.busy = false →
    (s.events = [] → step s = .next s) ∧
    (∀ rest, s.events = .engine :: rest → step s = .next { s with events := rest })

/-- The frame of every command (R21, R22 of `10_state.md`; R66; R131, R135 of `60_exceptions.md`): a
completion leaves `OP`, `LAT`, `LASTOP`, the schedule and the host's record alone, leaves `RES1` and
`RES2` alone unless the command is `EEA`, and ends in exactly one of two ways: with `DONE` set and
`ERR`, `CAUSE` as they were, or with the error taken, no result written and `DONE` as it was. -/
def Obligations.CommandFrame : Prop :=
  ∀ (i : Instr) (s : State), ∃ t, exec i s = .next t ∧
    t.op = s.op ∧ t.lat = s.lat ∧ t.lastOp = s.lastOp ∧ t.events = s.events ∧
    t.reads = s.reads ∧ t.busy = false ∧
    (i ≠ .eea → t.res.res1 = s.res.res1 ∧ t.res.res2 = s.res.res2) ∧
    ((t.done = true ∧ t.err = s.err ∧ t.cause = s.cause) ∨
      (t.done = s.done ∧ t.err = true ∧ t.res = s.res ∧
        ∃ c, c ≠ .illegalCommand ∧ t.cause = some c))

/-- R131, R135 (`60_exceptions.md`): a command whose outcome is an error takes it and writes no
result; R66 (`30_encoding.md`): one whose outcome is `Ok` performs its writes and sets `DONE`. -/
def Obligations.CompletionFollowsTheOutcome : Prop :=
  ∀ (i : Instr) (s : State),
    (∀ c, commandResult i s.lat = .err c →
      exec i s = .next { s with busy := false, err := true, cause := some c }) ∧
    (∀ ws, commandResult i s.lat = .ok ws →
      exec i s = .next { s with res := writeResults s.res ws, busy := false, done := true })

/-- R130, R132 (`60_exceptions.md`): the causes each command can raise; `NPOW2` and `EEA` raise
nothing, and no command raises `IllegalCommand`. -/
def Obligations.ErrorCausesOfEachCommand : Prop :=
  ∀ (l : Operands) (c : Cause),
    (commandResult .msb32 l = .err c → c = .bitScanOfZero) ∧
    commandResult .npow2 l ≠ .err c ∧
    commandResult .eea l ≠ .err c ∧
    (commandResult .invm l = .err c → c = .modulusNonPositive ∨ c = .noModularInverseExists) ∧
    (commandResult .mn1 l = .err c → c = .modulusNonPositive ∨ c = .noModularInverseExists) ∧
    (commandResult .mr1 l = .err c → c = .modulusNonPositive ∨ c = .noModularInverseExists) ∧
    (commandResult .mredc l = .err c → c = .modulusNonPositive ∨ c = .operandRange) ∧
    (commandResult .mexp l = .err c →
      c = .modulusNonPositive ∨ c = .operandRange ∨ c = .noModularInverseExists) ∧
    (commandResult .powm l = .err c → c = .modulusNonPositive ∨ c = .operandRange)

/-- R12 (`00_scope.md`), R62 (`30_encoding.md`): two completions of one command whose latches agree
on the operands the command reads give the same results and the same flags, whatever the operand
registers and the unread latches hold. -/
def Obligations.OnlyTheOperandsReadMatter : Prop :=
  ∀ (i : Instr) (s s' : State),
    operandsAgree (operandCount i) s.lat s'.lat → s.res = s'.res →
    s.done = s'.done → s.err = s'.err → s.cause = s'.cause →
    ∃ t t', exec i s = .next t ∧ exec i s' = .next t' ∧
      t.res = t'.res ∧ t.busy = t'.busy ∧ t.done = t'.done ∧ t.err = t'.err ∧ t.cause = t'.cause

/-- R63, R66 (`30_encoding.md`), R154 (`70_reset_and_hazards.md`): a command issued to an idle block
and completed at the engine's next turn ends with the outcome its rule gives for the operands in
`OP0`..`OP3` at the instant of the `CMD` write, even when `OP0` is rewritten in between. -/
def Obligations.IssuedCommandUsesTheOperandsAtIssue : Prop :=
  ∀ (s : State) (i : Instr) (v : Word) (rest : List Event), s.Inv → s.busy = false →
    s.err = false → s.events = .write 0 (encode i) :: .write 2 v :: .engine :: rest →
    ∃ t, runSteps 3 s = .next t ∧ t.op = { s.op with op0 := v } ∧ t.lat = s.op ∧
      t.lastOp = opcodeOf i ∧ t.busy = false ∧ t.events = rest ∧
      (∀ ws, commandResult i s.op = .ok ws →
        t.done = true ∧ t.err = false ∧ t.cause = none ∧ t.res = writeResults s.res ws) ∧
      (∀ c, commandResult i s.op = .err c →
        t.done = false ∧ t.err = true ∧ t.cause = some c ∧ t.res = s.res)

/-- R69 (`30_encoding.md`), R66: the pseudo-operation `call` on an idle block, for every command, every
operand values and every number of reads that find `BUSY = 1`: each of those reads returns the
status of the running command alone, and the block ends with the outcome the command's rule gives
for the operands of the call, which the last read shows. -/
def Obligations.CallRunsTheCommandOnItsOperands : Prop :=
  ∀ (s : State) (i : Instr) (l : Operands) (polls : Nat) (rest : List Event), s.Inv →
    s.busy = false → s.err = false → s.events = callEvents i l polls ++ rest →
    ∃ t, runSteps (callEvents i l polls).length s = .next t ∧ t.events = rest ∧
      t.busy = false ∧ t.lastOp = opcodeOf i ∧
      t.reads = statusWord t ::
        (List.replicate polls (BitVec.ofNat 32 (1 + 256 * (opcodeOf i).toNat)) ++ s.reads) ∧
      (∀ ws, commandResult i l = .ok ws →
        t.done = true ∧ t.err = false ∧ t.cause = none ∧ t.res = writeResults s.res ws) ∧
      (∀ c, commandResult i l = .err c →
        t.done = false ∧ t.err = true ∧ t.cause = some c ∧ t.res = s.res)

/-! ## Rules about the whole machine -/

/-- R21 (`10_state.md`), R45, R150: only an operand write by the host and a reset change an operand
register. -/
def Obligations.OnlyTheHostAndResetChangeOperands : Prop :=
  ∀ s t : State, step s = .next t → t.op ≠ s.op →
    (∃ i v rest, s.events = .write i v :: rest ∧ 2 ≤ i ∧ i ≤ 5) ∨
    (∃ rest, s.events = .reset :: rest)

/-- R22 (`10_state.md`), R135 (`60_exceptions.md`), R150: only a command that completes without
error, and a reset, change a result register. -/
def Obligations.OnlyErrorFreeCompletionAndResetChangeResults : Prop :=
  ∀ s t : State, s.Inv → step s = .next t → t.res ≠ s.res →
    (s.enginesTurn ∧ s.busy = true ∧ t.busy = false ∧ t.done = true ∧ t.err = false) ∨
    (∃ rest, s.events = .reset :: rest)

/-- R29 (`10_state.md`), R150: only the acceptance of a command, which copies the operand registers,
and a reset change a latch. -/
def Obligations.OnlyAcceptanceAndResetChangeLatches : Prop :=
  ∀ s t : State, step s = .next t → t.lat ≠ s.lat →
    (∃ i rest, s.events = .write 0 (encode i) :: rest ∧ s.busy = false ∧ s.err = false ∧
      t.lat = s.op ∧ t.busy = true) ∨
    (∃ rest, s.events = .reset :: rest)

/-- R134, R136, R137 (`60_exceptions.md`): an error stays, with its first cause and the command it
belongs to, until the host clears it or a reset comes. -/
def Obligations.ErrorStaysUntilCleared : Prop :=
  ∀ s t : State, s.Inv → s.err = true → step s = .next t →
    (t.err = true ∧ t.cause = s.cause ∧ t.lastOp = s.lastOp ∧ t.res = s.res ∧ t.busy = false) ∨
    (∃ v rest, s.events = .write 1 v :: rest ∧ v.getLsbD 2 = true ∧ t.err = false ∧
      t.cause = none ∧ t.lastOp = s.lastOp ∧ t.res = s.res) ∨
    (∃ rest, s.events = .reset :: rest)

/-- R138 (`60_exceptions.md`), R66, R150: a running command ends only by its completion or by a
reset; nothing the host reads or writes cancels it. -/
def Obligations.OnlyCompletionAndResetEndACommand : Prop :=
  ∀ s t : State, s.busy = true → step s = .next t → t.busy = false →
    (s.enginesTurn ∧ (t.done = true ∨ t.err = true)) ∨ (∃ rest, s.events = .reset :: rest)

/-- R29, R30 (`10_state.md`), R50 (`20_memory.md`): when the engine completes after any sequence of
host accesses, the results, the status and the latches are those of completing at once. -/
def Obligations.InterleavingDoesNotChangeTheOutcome : Prop :=
  ∀ (s : State) (es rest : List Event), s.Inv → s.busy = true →
    (∀ e ∈ es, e.isHostAccess = true) →
    ∃ t u, runSteps (es.length + 1) { s with events := es ++ .engine :: rest } = .next t ∧
      step { s with events := [] } = .next u ∧
      t.res = u.res ∧ statusWord t = statusWord u ∧ t.lat = u.lat ∧ t.events = rest

/-- R66 (`30_encoding.md`), R69, R158: every accepted command completes: when the schedule holds no
reset and no irregular access, the block is found not busy, with `DONE` or `ERR` set, after at most
one step more than are scheduled. -/
def Obligations.EveryAcceptedCommandCompletes : Prop :=
  ∀ s : State, s.Inv → s.busy = true → (∀ e ∈ s.events, e.isOrdinary = true) →
    ∃ k t, k ≤ s.events.length + 1 ∧ runSteps k s = .next t ∧ t.busy = false ∧
      (t.done = true ∨ t.err = true)

/-- R135 (`60_exceptions.md`): `DONE = 1` means that `RES` holds the results of the command in
`LASTOP` on the operands latched at its acceptance, and an error other than `IllegalCommand` is the
error of that command on those operands: true after reset and kept by every transition. -/
def Obligations.ResultsBelongToTheLastCommand : Prop :=
  State.reset.outcomeCurrent ∧
  ∀ s t : State, s.Inv → s.outcomeCurrent → step s = .next t → t.outcomeCurrent

/-! ## The bit utilities -/

/-- R80, R81 (`40_bit_utilities.md`): `MSB32` delivers the `k` with `2^k <= n < 2^(k+1)`, and raises
`BitScanOfZero` exactly for `n = 0`. -/
def Obligations.Msb32DeliversTheTopBit : Prop :=
  ∀ s : State,
    (s.lat.op0 = 0 → exec .msb32 s =
      .next { s with busy := false, err := true, cause := some .bitScanOfZero }) ∧
    (s.lat.op0 ≠ 0 → ∃ k, k ≤ 31 ∧ 2 ^ k ≤ s.lat.op0.toNat ∧ s.lat.op0.toNat < 2 ^ (k + 1) ∧
      exec .msb32 s = .next { s with
        res := { s.res with res0 := BitVec.ofNat 32 k }, busy := false, done := true })

/-- R82, R83 (`40_bit_utilities.md`): `NPOW2` never raises; below `2^31` it delivers the least power
of two strictly greater than `n`, from `2^31` on it wraps to 0. -/
def Obligations.Npow2DeliversTheNextPowerOfTwo : Prop :=
  ∀ s : State, ∃ p : Nat,
    (s.lat.op0.toNat < 2 ^ 31 → (∃ k, p = 2 ^ k) ∧ s.lat.op0.toNat < p ∧
      ∀ j, s.lat.op0.toNat < 2 ^ j → p ≤ 2 ^ j) ∧
    (2 ^ 31 ≤ s.lat.op0.toNat → p = 0) ∧
    exec .npow2 s = .next { s with
      res := { s.res with res0 := BitVec.ofNat 32 p }, busy := false, done := true }

/-- R84 (`40_bit_utilities.md`): `next_pow2` and `msb32` describe the same radix below `2^31` and
part from `2^31` on. -/
def Obligations.NextPow2IsTheRadixOfMsb32 : Prop :=
  ∀ n : Nat,
    (1 ≤ n → n < 2 ^ 31 →
      ∃ k, msb32 n = some k ∧ nextPow2 n = 2 ^ (k + 1) ∧ n < nextPow2 n ∧ nextPow2 n ≤ 2 * n) ∧
    (2 ^ 31 ≤ n → n < 2 ^ 32 → msb32 n = some 31 ∧ nextPow2 n = 0)

/-! ## The solver and the inverse -/

/-- R91 (`41_euclid_inverse.md`): the solver follows VC's derivation exactly, for all integers. -/
def Obligations.SolverFollowsTheDerivation : Prop :=
  ∀ a b : Int,
    (b = 0 → eea a b = { d := a, x := 1, y := 0 }) ∧
    (b ≠ 0 → eea a b =
      { d := (eea b (trem a b)).d
        x := (eea b (trem a b)).y
        y := (eea b (trem a b)).x - tdiv a b * (eea b (trem a b)).y })

/-- R92 (b), (c), (d) (`41_euclid_inverse.md`): the Bézout identity, the size of `d`, and its sign
for non-negative operands. -/
def Obligations.SolverSatisfiesBezout : Prop :=
  (∀ a b : Int,
    a * (eea a b).x + b * (eea a b).y = (eea a b).d ∧
    (eea a b).d.natAbs = Nat.gcd a.natAbs b.natAbs ∧
    (0 ≤ a → 0 ≤ b → 0 ≤ (eea a b).d)) ∧
  eea 0 0 = { d := 0, x := 1, y := 0 }

/-- R92 (e) (`41_euclid_inverse.md`): for 32-bit operands the three results are 32-bit integers. -/
def Obligations.SolverResultsFitTheRegisters : Prop :=
  ∀ a b : Int, -2 ^ 31 ≤ a → a < 2 ^ 31 → -2 ^ 31 ≤ b → b < 2 ^ 31 →
    (-2 ^ 31 ≤ (eea a b).d ∧ (eea a b).d < 2 ^ 31) ∧
    (-2 ^ 31 ≤ (eea a b).x ∧ (eea a b).x < 2 ^ 31) ∧
    (-2 ^ 31 ≤ (eea a b).y ∧ (eea a b).y < 2 ^ 31)

/-- R93 (`41_euclid_inverse.md`): `EEA` never raises and delivers the solver's triple, read back as
signed integers without loss, with the corner cases of the rule. -/
def Obligations.EeaDeliversTheTriple : Prop :=
  (∀ s : State, ∃ r : Results,
    exec .eea s = .next { s with res := r, busy := false, done := true } ∧
    s32 r.res0 = (eea (s32 s.lat.op0) (s32 s.lat.op1)).d ∧
    s32 r.res1 = (eea (s32 s.lat.op0) (s32 s.lat.op1)).x ∧
    s32 r.res2 = (eea (s32 s.lat.op0) (s32 s.lat.op1)).y) ∧
  (∀ a : Int, eea a 0 = { d := a, x := 1, y := 0 }) ∧
  (∀ a b : Int, b ≠ 0 → b ∣ a → eea a b = { d := b, x := 0, y := 1 }) ∧
  (∀ a b : Int, a.natAbs < b.natAbs →
    eea a b = { d := (eea b a).d, x := (eea b a).y, y := (eea b a).x })

/-- R94, R95 (`41_euclid_inverse.md`): when `inverse_m` answers, the modulus is positive and the
answer is the residue that inverts `a`; and it answers for every non-negative `a` coprime to a
positive modulus. -/
def Obligations.InverseIsTheResidue : Prop :=
  (∀ a m inv : Int, inverseM a m = .ok inv → 1 ≤ m ∧ 0 ≤ inv ∧ inv < m ∧ m ∣ a * inv - 1) ∧
  (∀ a m : Int, 0 ≤ a → 1 ≤ m → Int.gcd a m = 1 → ∃ inv, inverseM a m = .ok inv)

/-- R96 (`41_euclid_inverse.md`): `INVM`'s two errors in their order, and its result. -/
def Obligations.InvmDeliversTheInverse : Prop :=
  ∀ s : State,
    (s32 s.lat.op1 ≤ 0 → exec .invm s =
      .next { s with busy := false, err := true, cause := some .modulusNonPositive }) ∧
    (0 < s32 s.lat.op1 → (eea (s32 s.lat.op0) (s32 s.lat.op1)).d ≠ 1 → exec .invm s =
      .next { s with busy := false, err := true, cause := some .noModularInverseExists }) ∧
    (0 < s32 s.lat.op1 → (eea (s32 s.lat.op0) (s32 s.lat.op1)).d = 1 →
      ∃ v : Word, 0 ≤ s32 v ∧ s32 v < s32 s.lat.op1 ∧
        s32 s.lat.op1 ∣ s32 s.lat.op0 * s32 v - 1 ∧
        exec .invm s =
          .next { s with res := { s.res with res0 := v }, busy := false, done := true })

/-! ## The Montgomery parameters -/

/-- R101, R102 (`42_montgomery_params.md`): `MN1`'s two errors in their order, and for an odd modulus
below `2^31` the `n1` in `[1, r-1]` with `n*n1 ≡ -1 (mod r)`, where `r` is the radix. -/
def Obligations.Mn1DeliversTheNegatedInverse : Prop :=
  ∀ s : State,
    ((s.lat.op0.toNat = 0 ∨ 2 ^ 31 ≤ s.lat.op0.toNat) → exec .mn1 s =
      .next { s with busy := false, err := true, cause := some .modulusNonPositive }) ∧
    (1 ≤ s.lat.op0.toNat → s.lat.op0.toNat < 2 ^ 31 → s.lat.op0.toNat % 2 = 0 → exec .mn1 s =
      .next { s with busy := false, err := true, cause := some .noModularInverseExists }) ∧
    (s.lat.op0.toNat < 2 ^ 31 → s.lat.op0.toNat % 2 = 1 →
      ∃ (k : Nat) (v : Word), 2 ^ k ≤ s.lat.op0.toNat ∧ s.lat.op0.toNat < 2 ^ (k + 1) ∧
        1 ≤ v.toNat ∧ v.toNat < 2 ^ (k + 1) ∧ 2 ^ (k + 1) ∣ s.lat.op0.toNat * v.toNat + 1 ∧
        exec .mn1 s =
          .next { s with res := { s.res with res0 := v }, busy := false, done := true })

/-- R103, R104 (`42_montgomery_params.md`): `MR1`'s two errors in their order, and for an odd modulus
below `2^31` the `r1` in `[0, n)` with `r*r1 ≡ 1 (mod n)`, where `r` is the radix. -/
def Obligations.Mr1DeliversTheRadixInverse : Prop :=
  ∀ s : State,
    ((s.lat.op0.toNat = 0 ∨ 2 ^ 31 ≤ s.lat.op0.toNat) → exec .mr1 s =
      .next { s with busy := false, err := true, cause := some .modulusNonPositive }) ∧
    (1 ≤ s.lat.op0.toNat → s.lat.op0.toNat < 2 ^ 31 → s.lat.op0.toNat % 2 = 0 → exec .mr1 s =
      .next { s with busy := false, err := true, cause := some .noModularInverseExists }) ∧
    (s.lat.op0.toNat < 2 ^ 31 → s.lat.op0.toNat % 2 = 1 →
      ∃ (k : Nat) (v : Word), 2 ^ k ≤ s.lat.op0.toNat ∧ s.lat.op0.toNat < 2 ^ (k + 1) ∧
        v.toNat < s.lat.op0.toNat ∧ 2 ^ (k + 1) * v.toNat ≡ 1 [MOD s.lat.op0.toNat] ∧
        exec .mr1 s =
          .next { s with res := { s.res with res0 := v }, busy := false, done := true })

/-- R105 (b) (`42_montgomery_params.md`): the unit relation between the two parameters. -/
def Obligations.MontgomeryUnitRelation : Prop :=
  ∀ n : Nat, n % 2 = 1 → n < 2 ^ 31 →
    ∃ (r : Nat) (n1 r1 : Int), radix n = .ok r ∧ montgomeryN1 n = .ok n1 ∧
      montgomeryR1 n = .ok r1 ∧
      (3 ≤ n → (r : Int) * r1 - n * n1 = 1) ∧ (n = 1 → (r : Int) * r1 - n * n1 = -1)

/-! ## Reduction and exponentiation -/

/-- R111 (a), (b), (d) (`43_montgomery_reduce_exp.md`): with a matching `n1` one reduction multiplies
by the inverse of the radix; for an argument below `r*n` its result is a residue; and its result is
always below `a/r + n`. -/
def Obligations.ReductionLaws : Prop :=
  ∀ a k n n1 : Nat, 1 ≤ n →
    (2 ^ k ∣ n * n1 + 1 → redc a k n n1 * 2 ^ k ≡ a [MOD n]) ∧
    (a < 2 ^ k * n → redc a k n n1 < n) ∧
    2 ^ k * redc a k n n1 < a + 2 ^ k * n

/-- R110, R112 (`43_montgomery_reduce_exp.md`): `MREDC`'s two errors in their order, and otherwise
the value of the reduction formula with its one subtraction, which fits the register, whether or
not the parameters match. -/
def Obligations.MredcDeliversTheReduction : Prop :=
  ∀ (s : State) (a k n n1 : Int), a = s32 s.lat.op0 → k = s32 s.lat.op1 → n = s32 s.lat.op2 →
    n1 = s32 s.lat.op3 →
    (n ≤ 0 → exec .mredc s =
      .next { s with busy := false, err := true, cause := some .modulusNonPositive }) ∧
    (0 < n → (a < 0 ∨ k < 0 ∨ 31 < k ∨ n1 < 0) → exec .mredc s =
      .next { s with busy := false, err := true, cause := some .operandRange }) ∧
    (0 < n → 0 ≤ a → 0 ≤ k → k ≤ 31 → 0 ≤ n1 →
      ∃ (m t : Int) (v : Word),
        m = ((a % 2 ^ k.toNat) * n1) % 2 ^ k.toNat ∧ t = (a + m * n) / 2 ^ k.toNat ∧
        (n ≤ t → s32 v = t - n) ∧ (t < n → s32 v = t) ∧ 0 ≤ s32 v ∧
        exec .mredc s =
          .next { s with res := { s.res with res0 := v }, busy := false, done := true })

/-- R113, R114, R115 (`43_montgomery_reduce_exp.md`): `MEXP`'s three errors in their order, and for
an odd modulus below `2^31` and non-negative base and exponent the residue `x^d mod n`. -/
def Obligations.MexpDeliversThePower : Prop :=
  ∀ s : State,
    ((s.lat.op2.toNat = 0 ∨ 2 ^ 31 ≤ s.lat.op2.toNat) → exec .mexp s =
      .next { s with busy := false, err := true, cause := some .modulusNonPositive }) ∧
    (1 ≤ s.lat.op2.toNat → s.lat.op2.toNat < 2 ^ 31 →
      (s32 s.lat.op0 < 0 ∨ s32 s.lat.op1 < 0) → exec .mexp s =
        .next { s with busy := false, err := true, cause := some .operandRange }) ∧
    (1 ≤ s.lat.op2.toNat → s.lat.op2.toNat < 2 ^ 31 → 0 ≤ s32 s.lat.op0 → 0 ≤ s32 s.lat.op1 →
      s.lat.op2.toNat % 2 = 0 → exec .mexp s =
        .next { s with busy := false, err := true, cause := some .noModularInverseExists }) ∧
    (s.lat.op2.toNat < 2 ^ 31 → 0 ≤ s32 s.lat.op0 → 0 ≤ s32 s.lat.op1 →
      s.lat.op2.toNat % 2 = 1 →
      ∃ v : Word, v.toNat = s.lat.op0.toNat ^ s.lat.op1.toNat % s.lat.op2.toNat ∧
        exec .mexp s =
          .next { s with res := { s.res with res0 := v }, busy := false, done := true })

/-- R125, R126, R127 (`44_binary_exp.md`): `POWM`'s two errors in their order, and otherwise the
residue `a^d mod n`, but 1 for `d = 0` with `n = 1`. -/
def Obligations.PowmDeliversThePower : Prop :=
  ∀ s : State,
    (s32 s.lat.op2 ≤ 0 → exec .powm s =
      .next { s with busy := false, err := true, cause := some .modulusNonPositive }) ∧
    (0 < s32 s.lat.op2 → (s32 s.lat.op0 < 0 ∨ s32 s.lat.op1 < 0) → exec .powm s =
      .next { s with busy := false, err := true, cause := some .operandRange }) ∧
    (0 < s32 s.lat.op2 → 0 ≤ s32 s.lat.op0 → 0 ≤ s32 s.lat.op1 →
      ∃ v : Word, (s.lat.op1 = 0 → v = 1) ∧
        (s.lat.op1 ≠ 0 → v.toNat = s.lat.op0.toNat ^ s.lat.op1.toNat % s.lat.op2.toNat) ∧
        exec .powm s =
          .next { s with res := { s.res with res0 := v }, busy := false, done := true })

/-- R116 (`43_montgomery_reduce_exp.md`): for an odd modulus from 3 below `2^31` and non-negative
base and exponent the two exponentiations complete without error and deliver the same `RES0`; for
the modulus 1 they differ exactly at `d = 0`; for an even modulus `POWM` completes and `MEXP`
raises `NoModularInverseExists`; for a negative or zero modulus, and for a negative operand, both
raise the same cause. -/
def Obligations.ExponentiationsAgree : Prop :=
  ∀ s : State, ∃ t u, exec .mexp s = .next t ∧ exec .powm s = .next u ∧
    (3 ≤ s32 s.lat.op2 → s32 s.lat.op2 % 2 = 1 → 0 ≤ s32 s.lat.op0 → 0 ≤ s32 s.lat.op1 →
      t.done = true ∧ t = u ∧
      t.res.res0.toNat = s.lat.op0.toNat ^ s.lat.op1.toNat % s.lat.op2.toNat) ∧
    (s.lat.op2 = 1 → 0 ≤ s32 s.lat.op0 → 0 ≤ s32 s.lat.op1 →
      t.done = true ∧ u.done = true ∧ t.res.res0 = 0 ∧
      u.res.res0 = (if s.lat.op1 = 0 then 1 else 0)) ∧
    (2 ≤ s32 s.lat.op2 → s32 s.lat.op2 % 2 = 0 → 0 ≤ s32 s.lat.op0 → 0 ≤ s32 s.lat.op1 →
      t.err = true ∧ t.cause = some .noModularInverseExists ∧ u.done = true) ∧
    (s32 s.lat.op2 ≤ 0 → t = u ∧ t.err = true ∧ t.cause = some .modulusNonPositive) ∧
    (0 < s32 s.lat.op2 → (s32 s.lat.op0 < 0 ∨ s32 s.lat.op1 < 0) →
      t = u ∧ t.err = true ∧ t.cause = some .operandRange)
end

