-- ==== Sys2Proof/Laws/Numbers.lean ====
section
/-!
SUPPORT. The spec's number conversions and division are the library's, so that its lemmas apply.
-/

namespace Sys2Proof.Machine

/-- `s32` is the library's two's-complement reading. -/
theorem s32_eq_toInt (b : Word) : s32 b = b.toInt := by
  have h := b.isLt
  unfold s32
  rw [BitVec.toInt_eq_msb_cond, BitVec.msb_eq_getLsbD_last]
  rfl

/-- `wrap32` is the library's wrapping conversion. -/
theorem wrap32_eq_ofInt (v : Int) : wrap32 v = BitVec.ofInt 32 v := by
  apply BitVec.eq_of_toNat_eq
  rw [wrap32, BitVec.toNat_ofNat, BitVec.toNat_ofInt]
  omega

/-- The signs of two naturals do not change their quotient. -/
theorem sign_mul_sign_mul_div (m n : Nat) :
    (m : Int).sign * (n : Int).sign * ((m / n : Nat) : Int) = ((m / n : Nat) : Int) := by
  rcases Nat.eq_zero_or_pos m with rfl | hm
  · simp
  · rcases Nat.eq_zero_or_pos n with rfl | hn
    · simp
    · rw [Int.sign_eq_one_of_pos (by omega), Int.sign_eq_one_of_pos (by omega)]; simp

/-- `tdiv` is the library's truncating quotient. -/
theorem tdiv_eq_tdiv (a b : Int) : tdiv a b = Int.tdiv a b := by
  obtain ⟨m, rfl | rfl⟩ := Int.eq_nat_or_neg a <;>
    obtain ⟨n, rfl | rfl⟩ := Int.eq_nat_or_neg b <;>
    simp only [tdiv, Int.sign_neg, Int.natAbs_neg, Int.natAbs_natCast, Int.neg_tdiv, Int.tdiv_neg,
      neg_mul, mul_neg, neg_neg, sign_mul_sign_mul_div, ← Int.ofNat_tdiv]

/-- `trem` is the library's truncating remainder. -/
theorem trem_eq_tmod (a b : Int) : trem a b = Int.tmod a b := by
  rw [trem, tdiv_eq_tdiv]
  have := Int.mul_tdiv_add_tmod a b
  omega

end Sys2Proof.Machine
end

