-- ==== Sys2Proof/Laws/State.lean ====
section
/-!
SUPPORT. What each named update does to each field of `State`, all by `rfl` and tagged for `simp`, so
that no later proof unfolds a record update. The conditional updates stand in `Laws/Ops.lean`.
-/

namespace Sys2Proof.Machine

@[simp] theorem raiseError_op (c : Cause) (s : State) :
    (raiseError c s).op = s.op := rfl

@[simp] theorem raiseError_lat (c : Cause) (s : State) :
    (raiseError c s).lat = s.lat := rfl

@[simp] theorem raiseError_res (c : Cause) (s : State) :
    (raiseError c s).res = s.res := rfl

@[simp] theorem raiseError_busy (c : Cause) (s : State) :
    (raiseError c s).busy = false := rfl

@[simp] theorem raiseError_done (c : Cause) (s : State) :
    (raiseError c s).done = s.done := rfl

@[simp] theorem raiseError_err (c : Cause) (s : State) :
    (raiseError c s).err = true := rfl

@[simp] theorem raiseError_cause (c : Cause) (s : State) :
    (raiseError c s).cause = some c := rfl

@[simp] theorem raiseError_lastOp (c : Cause) (s : State) :
    (raiseError c s).lastOp = s.lastOp := rfl

@[simp] theorem raiseError_events (c : Cause) (s : State) :
    (raiseError c s).events = s.events := rfl

@[simp] theorem raiseError_reads (c : Cause) (s : State) :
    (raiseError c s).reads = s.reads := rfl

@[simp] theorem acceptCommand_op (w : Word) (s : State) :
    (acceptCommand w s).op = s.op := rfl

@[simp] theorem acceptCommand_lat (w : Word) (s : State) :
    (acceptCommand w s).lat = s.op := rfl

@[simp] theorem acceptCommand_res (w : Word) (s : State) :
    (acceptCommand w s).res = s.res := rfl

@[simp] theorem acceptCommand_busy (w : Word) (s : State) :
    (acceptCommand w s).busy = true := rfl

@[simp] theorem acceptCommand_done (w : Word) (s : State) :
    (acceptCommand w s).done = false := rfl

@[simp] theorem acceptCommand_err (w : Word) (s : State) :
    (acceptCommand w s).err = s.err := rfl

@[simp] theorem acceptCommand_cause (w : Word) (s : State) :
    (acceptCommand w s).cause = s.cause := rfl

@[simp] theorem acceptCommand_lastOp (w : Word) (s : State) :
    (acceptCommand w s).lastOp = opcodeField w := rfl

@[simp] theorem acceptCommand_events (w : Word) (s : State) :
    (acceptCommand w s).events = s.events := rfl

@[simp] theorem acceptCommand_reads (w : Word) (s : State) :
    (acceptCommand w s).reads = s.reads := rfl

@[simp] theorem rejectCommand_op (w : Word) (s : State) :
    (rejectCommand w s).op = s.op := rfl

@[simp] theorem rejectCommand_lat (w : Word) (s : State) :
    (rejectCommand w s).lat = s.lat := rfl

@[simp] theorem rejectCommand_res (w : Word) (s : State) :
    (rejectCommand w s).res = s.res := rfl

@[simp] theorem rejectCommand_busy (w : Word) (s : State) :
    (rejectCommand w s).busy = false := rfl

@[simp] theorem rejectCommand_done (w : Word) (s : State) :
    (rejectCommand w s).done = false := rfl

@[simp] theorem rejectCommand_err (w : Word) (s : State) :
    (rejectCommand w s).err = true := rfl

@[simp] theorem rejectCommand_cause (w : Word) (s : State) :
    (rejectCommand w s).cause = some .illegalCommand := rfl

@[simp] theorem rejectCommand_lastOp (w : Word) (s : State) :
    (rejectCommand w s).lastOp = opcodeField w := rfl

@[simp] theorem rejectCommand_events (w : Word) (s : State) :
    (rejectCommand w s).events = s.events := rfl

@[simp] theorem rejectCommand_reads (w : Word) (s : State) :
    (rejectCommand w s).reads = s.reads := rfl

@[simp] theorem hostReads_op (i : Nat) (s : State) :
    (hostReads i s).op = s.op := rfl

@[simp] theorem hostReads_lat (i : Nat) (s : State) :
    (hostReads i s).lat = s.lat := rfl

@[simp] theorem hostReads_res (i : Nat) (s : State) :
    (hostReads i s).res = s.res := rfl

@[simp] theorem hostReads_busy (i : Nat) (s : State) :
    (hostReads i s).busy = s.busy := rfl

@[simp] theorem hostReads_done (i : Nat) (s : State) :
    (hostReads i s).done = s.done := rfl

@[simp] theorem hostReads_err (i : Nat) (s : State) :
    (hostReads i s).err = s.err := rfl

@[simp] theorem hostReads_cause (i : Nat) (s : State) :
    (hostReads i s).cause = s.cause := rfl

@[simp] theorem hostReads_lastOp (i : Nat) (s : State) :
    (hostReads i s).lastOp = s.lastOp := rfl

@[simp] theorem hostReads_events (i : Nat) (s : State) :
    (hostReads i s).events = s.events := rfl

@[simp] theorem hostReads_reads (i : Nat) (s : State) :
    (hostReads i s).reads = readValue i s :: s.reads := rfl

@[simp] theorem resetBlock_op (s : State) :
    (resetBlock s).op = Operands.zero := rfl

@[simp] theorem resetBlock_lat (s : State) :
    (resetBlock s).lat = Operands.zero := rfl

@[simp] theorem resetBlock_res (s : State) :
    (resetBlock s).res = Results.zero := rfl

@[simp] theorem resetBlock_busy (s : State) :
    (resetBlock s).busy = false := rfl

@[simp] theorem resetBlock_done (s : State) :
    (resetBlock s).done = false := rfl

@[simp] theorem resetBlock_err (s : State) :
    (resetBlock s).err = false := rfl

@[simp] theorem resetBlock_cause (s : State) :
    (resetBlock s).cause = none := rfl

@[simp] theorem resetBlock_lastOp (s : State) :
    (resetBlock s).lastOp = 0 := rfl

@[simp] theorem resetBlock_events (s : State) :
    (resetBlock s).events = s.events := rfl

@[simp] theorem resetBlock_reads (s : State) :
    (resetBlock s).reads = s.reads := rfl

@[simp] theorem complete_ok_op (ws : List (ResultReg × Word)) (s : State) :
    (complete (.ok ws) s).op = s.op := rfl

@[simp] theorem complete_ok_lat (ws : List (ResultReg × Word)) (s : State) :
    (complete (.ok ws) s).lat = s.lat := rfl

@[simp] theorem complete_ok_res (ws : List (ResultReg × Word)) (s : State) :
    (complete (.ok ws) s).res = writeResults s.res ws := rfl

@[simp] theorem complete_ok_busy (ws : List (ResultReg × Word)) (s : State) :
    (complete (.ok ws) s).busy = false := rfl

@[simp] theorem complete_ok_done (ws : List (ResultReg × Word)) (s : State) :
    (complete (.ok ws) s).done = true := rfl

@[simp] theorem complete_ok_err (ws : List (ResultReg × Word)) (s : State) :
    (complete (.ok ws) s).err = s.err := rfl

@[simp] theorem complete_ok_cause (ws : List (ResultReg × Word)) (s : State) :
    (complete (.ok ws) s).cause = s.cause := rfl

@[simp] theorem complete_ok_lastOp (ws : List (ResultReg × Word)) (s : State) :
    (complete (.ok ws) s).lastOp = s.lastOp := rfl

@[simp] theorem complete_ok_events (ws : List (ResultReg × Word)) (s : State) :
    (complete (.ok ws) s).events = s.events := rfl

@[simp] theorem complete_ok_reads (ws : List (ResultReg × Word)) (s : State) :
    (complete (.ok ws) s).reads = s.reads := rfl

@[simp] theorem complete_err_op (c : Cause) (s : State) :
    (complete (.err c) s).op = s.op := rfl

@[simp] theorem complete_err_lat (c : Cause) (s : State) :
    (complete (.err c) s).lat = s.lat := rfl

@[simp] theorem complete_err_res (c : Cause) (s : State) :
    (complete (.err c) s).res = s.res := rfl

@[simp] theorem complete_err_busy (c : Cause) (s : State) :
    (complete (.err c) s).busy = false := rfl

@[simp] theorem complete_err_done (c : Cause) (s : State) :
    (complete (.err c) s).done = s.done := rfl

@[simp] theorem complete_err_err (c : Cause) (s : State) :
    (complete (.err c) s).err = true := rfl

@[simp] theorem complete_err_cause (c : Cause) (s : State) :
    (complete (.err c) s).cause = some c := rfl

@[simp] theorem complete_err_lastOp (c : Cause) (s : State) :
    (complete (.err c) s).lastOp = s.lastOp := rfl

@[simp] theorem complete_err_events (c : Cause) (s : State) :
    (complete (.err c) s).events = s.events := rfl

@[simp] theorem complete_err_reads (c : Cause) (s : State) :
    (complete (.err c) s).reads = s.reads := rfl

end Sys2Proof.Machine
end

