-- ==== Sys2Proof/Laws/Ops.lean ====
section
/-!
SUPPORT. For each shared operation, once, everything it can do: later proofs cite these and do not
unfold the operation.
-/

namespace Sys2Proof.Machine

/-- `writeCommand` is one of four: ignored while busy, ignored in error, acceptance, rejection. -/
theorem writeCommand_cases (w : Word) (s : State) :
    ((s.busy = true ∨ s.err = true) ∧ writeCommand w s = s) ∨
    (s.busy = false ∧ s.err = false ∧ (∃ i, decode w = .ok i) ∧
      writeCommand w s = acceptCommand w s) ∨
    (s.busy = false ∧ s.err = false ∧ (∃ e, decode w = .error e) ∧
      writeCommand w s = rejectCommand w s) := by
  unfold writeCommand
  cases hb : s.busy
  · cases he : s.err
    · cases hd : decode w with
      | ok i => right; left; simp
      | error e => right; right; simp
    · left; simp
  · left; simp

/-- `writeStatus` clears the error, or changes nothing. -/
theorem writeStatus_cases (v : Word) (s : State) :
    (clearsError v = true ∧ s.err = true ∧
      writeStatus v s = { s with err := false, cause := none }) ∨
    ((clearsError v = false ∨ s.err = false) ∧ writeStatus v s = s) := by
  unfold writeStatus clearError
  cases hv : clearsError v
  · right; simp
  · cases he : s.err
    · right; simp [← he]
    · left; simp

/-- `hostWrite` by index: a command write, a status write, an operand write, or no change. -/
theorem hostWrite_cases (i : Nat) (v : Word) (s : State) :
    (i = 0 ∧ hostWrite i v s = writeCommand v s) ∨
    (i = 1 ∧ hostWrite i v s = writeStatus v s) ∨
    (2 ≤ i ∧ i ≤ 5 ∧ ∃ o, hostWrite i v s = { s with op := o }) ∨
    (6 ≤ i ∧ hostWrite i v s = s) := by
  match i with
  | 0 => exact .inl ⟨rfl, rfl⟩
  | 1 => exact .inr (.inl ⟨rfl, rfl⟩)
  | 2 => exact .inr (.inr (.inl ⟨by omega, by omega, _, rfl⟩))
  | 3 => exact .inr (.inr (.inl ⟨by omega, by omega, _, rfl⟩))
  | 4 => exact .inr (.inr (.inl ⟨by omega, by omega, _, rfl⟩))
  | 5 => exact .inr (.inr (.inl ⟨by omega, by omega, _, rfl⟩))
  | n + 6 => exact .inr (.inr (.inr ⟨by omega, rfl⟩))

/-- A completion sets `DONE` and performs the writes, or takes an error. -/
theorem complete_cases (out : CommandResult) (s : State) :
    (∃ ws, out = .ok ws ∧
      complete out s = { s with res := writeResults s.res ws, busy := false, done := true }) ∨
    (∃ c, out = .err c ∧ complete out s = raiseError c s) := by
  cases out with
  | ok ws => exact .inl ⟨ws, rfl, rfl⟩
  | err c => exact .inr ⟨c, rfl, rfl⟩

/-- A host write never moves the schedule or the host's record. -/
theorem hostWrite_events_reads (i : Nat) (v : Word) (s : State) :
    (hostWrite i v s).events = s.events ∧ (hostWrite i v s).reads = s.reads := by
  obtain ⟨-, h⟩ | ⟨-, h⟩ | ⟨-, -, o, h⟩ | ⟨-, h⟩ := hostWrite_cases i v s <;> rw [h]
  · obtain ⟨-, h⟩ | ⟨-, -, -, h⟩ | ⟨-, -, -, h⟩ := writeCommand_cases v s <;> simp [h]
  · obtain ⟨-, -, h⟩ | ⟨-, h⟩ := writeStatus_cases v s <;> simp [h]
  · exact ⟨rfl, rfl⟩
  · exact ⟨rfl, rfl⟩

/-- Inside indices 0..8 a read shows the register. -/
theorem readValue_of_hostRead {i : Nat} {s : State} {v : Word} (h : hostRead i s = some v) :
    readValue i s = v := by
  simp [readValue, h]

/-- A delivery to `RES0` succeeds with a wrapped value, or passes the cause on. -/
theorem deliverRes0_cases (v : Except Cause Int) :
    (∃ x, v = .ok x ∧ deliverRes0 v = .ok [(.res0, wrap32 x)]) ∨
    (∃ c, v = .error c ∧ deliverRes0 v = .err c) := by
  cases v with
  | ok x => exact .inl ⟨x, rfl, rfl⟩
  | error c => exact .inr ⟨c, rfl, rfl⟩

@[simp] theorem writeResults_nil (r : Results) : writeResults r [] = r := rfl

@[simp] theorem writeResults_res0 (r : Results) (v : Word) :
    writeResults r [(.res0, v)] = { r with res0 := v } := rfl

@[simp] theorem writeResults_all (r : Results) (u v w : Word) :
    writeResults r [(.res0, u), (.res1, v), (.res2, w)] = { res0 := u, res1 := v, res2 := w } := rfl

end Sys2Proof.Machine
end

