-- ==== Sys2Proof/Laws/PerInstr.lean ====
section
/-!
SUPPORT. The family `LegalWord`: what holds of every command as syntax, one lemma per constructor
(`spec/30_encoding.md` R60, R61).
-/

namespace Sys2Proof.Laws

/-- The word the encoder gives a command is a legal command word: its `zero` field is 0 and its
`opcode` field holds the command's number. -/
def LegalWord.Statement (i : Instr) : Prop :=
  i.wellFormed = true ∧ wordLegal (encode i) = true ∧ zeroField (encode i) = 0 ∧
    opcodeField (encode i) = opcodeOf i

theorem LegalWord.msb32 : LegalWord.Statement .msb32 := by unfold LegalWord.Statement; decide
theorem LegalWord.npow2 : LegalWord.Statement .npow2 := by unfold LegalWord.Statement; decide
theorem LegalWord.eea : LegalWord.Statement .eea := by unfold LegalWord.Statement; decide
theorem LegalWord.invm : LegalWord.Statement .invm := by unfold LegalWord.Statement; decide
theorem LegalWord.mn1 : LegalWord.Statement .mn1 := by unfold LegalWord.Statement; decide
theorem LegalWord.mr1 : LegalWord.Statement .mr1 := by unfold LegalWord.Statement; decide
theorem LegalWord.mredc : LegalWord.Statement .mredc := by unfold LegalWord.Statement; decide
theorem LegalWord.mexp : LegalWord.Statement .mexp := by unfold LegalWord.Statement; decide
theorem LegalWord.powm : LegalWord.Statement .powm := by unfold LegalWord.Statement; decide

end Sys2Proof.Laws
end

