-- ==== Sys2Proof/Laws/Step.lean ====
section
/-!
SUPPORT. What a step can do, said once.
-/

namespace Sys2Proof.Machine

/-- Every command completes with the outcome of its rule. -/
theorem exec_eq_complete (i : Instr) (s : State) :
    exec i s = .next (complete (commandResult i s.lat) s) := by
  cases i <;> rfl

/-- The engine's turn: nothing while not busy, else the completion of the command in `LASTOP`, else
the fault of a `LASTOP` that names none. -/
theorem engineStep_cases (s : State) :
    (s.busy = false ∧ engineStep s = .next s) ∨
    (s.busy = true ∧ ∃ i, decodeOpcode s.lastOp = some i ∧
      engineStep s = .next (complete (commandResult i s.lat) s)) ∨
    (s.busy = true ∧ decodeOpcode s.lastOp = none ∧
      engineStep s = .fault (.runningOpcodeIllegal s.lastOp)) := by
  unfold engineStep
  cases hb : s.busy
  · left; simp
  · right
    cases hd : decodeOpcode s.lastOp with
    | none => right; simp
    | some i => left; exact ⟨rfl, i, rfl, by simp [exec_eq_complete]⟩

/-- With nothing scheduled the engine moves. -/
theorem step_of_events_nil {s : State} (h : s.events = []) : step s = engineStep s := by
  simp [step, nextTransition, h]

/-- With something scheduled its first entry is run. -/
theorem step_of_events_cons {s : State} {e : Event} {rest : List Event}
    (h : s.events = e :: rest) : step s = runEvent e { s with events := rest } := by
  simp [step, nextTransition, h]

/-- Every way a step can answer a next state. -/
theorem step_next_cases {s t : State} (h : step s = .next t) :
    (s.events = [] ∧ engineStep s = .next t) ∨
    (∃ i rest, s.events = .read i :: rest ∧ t = hostReads i { s with events := rest }) ∨
    (∃ i v rest, s.events = .write i v :: rest ∧ t = hostWrite i v { s with events := rest }) ∨
    (∃ rest, s.events = .engine :: rest ∧ engineStep { s with events := rest } = .next t) ∨
    (∃ rest, s.events = .reset :: rest ∧ t = resetBlock { s with events := rest }) := by
  match he : s.events with
  | [] => exact .inl ⟨rfl, by rwa [step_of_events_nil he] at h⟩
  | e :: rest =>
    rw [step_of_events_cons he] at h
    cases e with
    | read i =>
      simp only [runEvent, Host.Outcome.next.injEq] at h
      exact .inr (.inl ⟨i, rest, rfl, h.symm⟩)
    | write i v =>
      simp only [runEvent, Host.Outcome.next.injEq] at h
      exact .inr (.inr (.inl ⟨i, v, rest, rfl, h.symm⟩))
    | irregular => simp [runEvent] at h
    | engine => exact .inr (.inr (.inr (.inl ⟨rest, rfl, h⟩)))
    | reset =>
      simp only [runEvent, Host.Outcome.next.injEq] at h
      exact .inr (.inr (.inr (.inr ⟨rest, rfl, h.symm⟩)))

@[simp] theorem runSteps_zero (s : State) : runSteps 0 s = .next s := rfl

/-- One step first, when it answers a next state. -/
theorem runSteps_succ_of_next {s t : State} (h : step s = .next t) (k : Nat) :
    runSteps (k + 1) s = runSteps k t := by
  simp [runSteps, h]

end Sys2Proof.Machine
end

