-- ==== Sys2Proof/Tests/Slice0.lean ====
section
/-!
SUPPORT. The model's own tests. Expected values come from the tables of `spec/95_test_vectors.md` and
the corner cases of the command rules; words are written out from the encoding of
`spec/30_encoding.md` R60, R61. The last part shows, for every statement with hypotheses, a concrete
state or operands that meet them.
-/

namespace Sys2Proof.Tests

open Sys2Proof.Machine

/-- A block that runs a command on these latched operands, with nothing scheduled. -/
def running (i : Instr) (l : Operands) : State :=
  { State.reset with lat := l, lastOp := opcodeOf i, busy := true }

/-- An idle block with these transitions ahead. -/
def ready (es : List Event) : State := { State.reset with events := es }

/-- The block of program P3 after its failed `INVM`: `STATUS = 0x424`. -/
def failed (es : List Event) : State :=
  { State.reset with err := true, cause := some .noModularInverseExists, lastOp := 4, events := es }

/-- A block that has completed `INVM`: `STATUS = 0x402`. -/
def finished (es : List Event) : State :=
  { State.reset with done := true, lastOp := 4, lat := { op0 := 3, op1 := 7, op2 := 0, op3 := 0 }
                     res := { res0 := 5, res1 := 0, res2 := 0 }, events := es }

/-- The next state, if there is one. -/
def nextOf (o : Host.Outcome State Fault Refusal) : Option State :=
  match o with
  | .next s => some s
  | .fault _ => none
  | .refused _ => none

/-- The result registers and `STATUS` of the next state. -/
def outcome (o : Host.Outcome State Fault Refusal) : Option (Word × Word × Word × Word) :=
  (nextOf o).map fun s => (s.res.res0, s.res.res1, s.res.res2, statusWord s)

/-- `STATUS` of the next state. -/
def statusOf (o : Host.Outcome State Fault Refusal) : Option Word := (nextOf o).map statusWord

/-! ## Well-formedness: one ill-formed word for each check (R61, R64) -/

/-- R64: `w[31:4] != 0`, word 0x13. -/
theorem test_zero_field_refuses :
    zeroFieldClear 0x00000013#32 = false ∧ wordLegal 0x00000013#32 = false := by decide

/-- R61: opcode 0 is not a command. -/
theorem test_opcode_zero_refuses :
    opcodeNonzero 0x00000000#32 = false ∧ wordLegal 0x00000000#32 = false := by decide

/-- R61: opcode 10 is not a command. -/
theorem test_opcode_ten_refuses :
    opcodeAtMostNine 0x0000000A#32 = false ∧ wordLegal 0x0000000A#32 = false := by decide

/-- R61: the largest legal word. -/
theorem test_word_nine_is_legal :
    wordLegal 0x00000009#32 = true := by decide

/-! ## Decoding: the nine words bit by bit, 28 zero bits and the opcode (R60, R61) -/

/-- Word `0x00000001`. -/
theorem test_decode_msb32 :
    decode 0b00000000000000000000000000000001#32 = .ok .msb32 := by decide

/-- Word `0x00000002`. -/
theorem test_decode_npow2 :
    decode 0b00000000000000000000000000000010#32 = .ok .npow2 := by decide

/-- Word `0x00000003`. -/
theorem test_decode_eea :
    decode 0b00000000000000000000000000000011#32 = .ok .eea := by decide

/-- Word `0x00000004`. -/
theorem test_decode_invm :
    decode 0b00000000000000000000000000000100#32 = .ok .invm := by decide

/-- Word `0x00000005`. -/
theorem test_decode_mn1 :
    decode 0b00000000000000000000000000000101#32 = .ok .mn1 := by decide

/-- Word `0x00000006`. -/
theorem test_decode_mr1 :
    decode 0b00000000000000000000000000000110#32 = .ok .mr1 := by decide

/-- Word `0x00000007`. -/
theorem test_decode_mredc :
    decode 0b00000000000000000000000000000111#32 = .ok .mredc := by decide

/-- Word `0x00000008`. -/
theorem test_decode_mexp :
    decode 0b00000000000000000000000000001000#32 = .ok .mexp := by decide

/-- Word `0x00000009`. -/
theorem test_decode_powm :
    decode 0b00000000000000000000000000001001#32 = .ok .powm := by decide

/-- The rejected words of section 2.7, by name. -/
theorem test_decode_rejects :
    decode 0x00000000#32 = .error .opcodeUnassigned ∧ decode 0x0000000A#32 = .error .opcodeUnassigned ∧
    decode 0x0000000F#32 = .error .opcodeUnassigned ∧ decode 0x00000013#32 = .error .zeroFieldSet ∧
    decode 0x80000001#32 = .error .zeroFieldSet ∧ decode 0xFFFFFFFF#32 = .error .zeroFieldSet := by decide

/-! ## The commands: section 2 of the test vectors -/

/-- Section 2.1: the operand is unsigned. -/
theorem test_msb32_top_bit :
    outcome (step (running .msb32 ⟨2147483648#32, 0#32, 0#32, 0#32⟩)) =
      some (0x0000001F#32, 0x00000000#32, 0x00000000#32, 0x00000102#32) := by decide

/-- Section 2.1: `BitScanOfZero`. -/
theorem test_msb32_zero :
    outcome (step (running .msb32 ⟨0#32, 0#32, 0#32, 0#32⟩)) =
      some (0x00000000#32, 0x00000000#32, 0x00000000#32, 0x00000134#32) := by decide

/-- Section 2.1: strictly greater. -/
theorem test_npow2_of_a_power :
    outcome (step (running .npow2 ⟨64#32, 0#32, 0#32, 0#32⟩)) =
      some (0x00000080#32, 0x00000000#32, 0x00000000#32, 0x00000202#32) := by decide

/-- Section 2.1: the wrap at `2^31`. -/
theorem test_npow2_wraps :
    outcome (step (running .npow2 ⟨2147483648#32, 0#32, 0#32, 0#32⟩)) =
      some (0x00000000#32, 0x00000000#32, 0x00000000#32, 0x00000202#32) := by decide

/-- Section 2.2: a negative operand and a negative `d`. -/
theorem test_eea_negative :
    outcome (step (running .eea ⟨4294967289#32, 4294967293#32, 0#32, 0#32⟩)) =
      some (0xFFFFFFFF#32, 0x00000001#32, 0xFFFFFFFE#32, 0x00000302#32) := by decide

/-- Section 2.2: the quotient `2^31`, no trap. -/
theorem test_eea_quotient_overflow :
    outcome (step (running .eea ⟨2147483648#32, 4294967295#32, 0#32, 0#32⟩)) =
      some (0xFFFFFFFF#32, 0x00000000#32, 0x00000001#32, 0x00000302#32) := by decide

/-- Section 2.3: the modulus is added once. -/
theorem test_invm_adds_the_modulus :
    outcome (step (running .invm ⟨3#32, 7#32, 0#32, 0#32⟩)) =
      some (0x00000005#32, 0x00000000#32, 0x00000000#32, 0x00000402#32) := by decide

/-- Section 2.3: the test is on the signed `d`. -/
theorem test_invm_signed_gcd :
    outcome (step (running .invm ⟨4294967292#32, 3#32, 0#32, 0#32⟩)) =
      some (0x00000000#32, 0x00000000#32, 0x00000000#32, 0x00000424#32) := by decide

/-- Section 2.4. -/
theorem test_mn1_of_43 :
    outcome (step (running .mn1 ⟨43#32, 0#32, 0#32, 0#32⟩)) =
      some (0x0000003D#32, 0x00000000#32, 0x00000000#32, 0x00000502#32) := by decide

/-- Section 2.4: an even modulus. -/
theorem test_mn1_even :
    outcome (step (running .mn1 ⟨44#32, 0#32, 0#32, 0#32⟩)) =
      some (0x00000000#32, 0x00000000#32, 0x00000000#32, 0x00000524#32) := by decide

/-- Section 2.4: the radix `2^31` stays positive. -/
theorem test_mr1_radix_top :
    outcome (step (running .mr1 ⟨1073741825#32, 0#32, 0#32, 0#32⟩)) =
      some (0x20000000#32, 0x00000000#32, 0x00000000#32, 0x00000602#32) := by decide

/-- Section 2.4: a modulus with bit 31 set. -/
theorem test_mr1_large_modulus :
    outcome (step (running .mr1 ⟨2147483649#32, 0#32, 0#32, 0#32⟩)) =
      some (0x00000000#32, 0x00000000#32, 0x00000000#32, 0x00000614#32) := by decide

/-- Section 2.5: the comparison is `>=`. -/
theorem test_mredc_equal_subtracts :
    outcome (step (running .mredc ⟨9#32, 4#32, 9#32, 7#32⟩)) =
      some (0x00000000#32, 0x00000000#32, 0x00000000#32, 0x00000702#32) := by decide

/-- Section 2.5: one subtraction only. -/
theorem test_mredc_one_subtraction :
    outcome (step (running .mredc ⟨2147483647#32, 6#32, 43#32, 61#32⟩)) =
      some (0x01FFFFD7#32, 0x00000000#32, 0x00000000#32, 0x00000702#32) := by decide

/-- Section 2.6, first demonstration triple. -/
theorem test_mexp_demo :
    outcome (step (running .mexp ⟨32#32, 56#32, 43#32, 0#32⟩)) =
      some (0x00000001#32, 0x00000000#32, 0x00000000#32, 0x00000802#32) := by decide +kernel

/-- Section 2.6: operand range before coprimality. -/
theorem test_mexp_check_order :
    outcome (step (running .mexp ⟨4294967295#32, 5#32, 44#32, 0#32⟩)) =
      some (0x00000000#32, 0x00000000#32, 0x00000000#32, 0x00000844#32) := by decide

/-- Section 2.6, third demonstration triple. -/
theorem test_powm_demo :
    outcome (step (running .powm ⟨23#32, 53#32, 43#32, 0#32⟩)) =
      some (0x00000019#32, 0x00000000#32, 0x00000000#32, 0x00000902#32) := by decide +kernel

/-- Section 2.6: `d = 0` with `n = 1` gives 1. -/
theorem test_powm_exponent_zero :
    outcome (step (running .powm ⟨0#32, 0#32, 1#32, 0#32⟩)) =
      some (0x00000001#32, 0x00000000#32, 0x00000000#32, 0x00000902#32) := by decide

/-! ## Issue, errors and host accesses: section 2.7 -/

/-- `W 0 0x80000001` from reset. -/
theorem test_illegal_word :
    statusOf (step (ready [.write 0 0x80000001#32])) = some 0x00000154#32 := by decide

/-- `W 0 0x00000002` from reset. -/
theorem test_legal_word :
    statusOf (step (ready [.write 0 0x00000002#32])) = some 0x00000201#32 := by decide

/-- A command write while busy. -/
theorem test_busy_ignores_command :
    nextOf (step { running .npow2 Operands.zero with events := [.write 0 9#32] }) =
      some (running .npow2 Operands.zero) := by decide

/-- `W 1 0x00000004` clears the error, `LASTOP` stays. -/
theorem test_clear_error :
    statusOf (step (failed [.write 1 4#32])) = some 0x00000400#32 := by decide

/-- `W 1 0xFFFFFFFB` clears nothing. -/
theorem test_clear_needs_bit_two :
    statusOf (step (failed [.write 1 0xFFFFFFFB#32])) = some 0x00000424#32 := by decide

/-- A result register ignores a write. -/
theorem test_result_write_ignored :
    nextOf (step (finished [.write 6 0x12345678#32])) = some (finished []) := by decide

/-- `R 0` returns 0 and `R 1` the status. -/
theorem test_reads :
    ((nextOf (runSteps 2 (finished [.read 0, .read 1]))).map State.reads) = some [0x402#32, 0#32] := by decide

/-- R150: a reset clears a running command. -/
theorem test_reset_event :
    nextOf (step { running .powm Operands.zero with events := [.reset] }) = some State.reset := by decide

/-- A placed word runs as the next step: `MSB32` of 0. -/
theorem test_fetch_word :
    statusOf (step (State.reset.withFetchWord 32 1)) = some 0x00000134#32 := by decide

/-! ## Witnesses: each statement's hypotheses are met -/

/-- Meets the hypotheses of `WordConversions`. -/
theorem witness_WordConversions :
    (-2 ^ 31 ≤ (-2147483648 : Int) ∧ (-2147483648 : Int) < 2 ^ 31) ∧
    (0 ≤ (4294967295 : Int) ∧ (4294967295 : Int) < 2 ^ 32) ∧
    (0x80000000#32).getLsbD 31 = true ∧ (0x7FFFFFFF#32).getLsbD 31 = false := by decide

/-- Meets the hypotheses of `TruncatingDivision`. -/
theorem witness_TruncatingDivision :
    (-1 : Int) ≠ 0 := by decide

/-- Meets the hypotheses of `DecodeEncodeAgree`. -/
theorem witness_DecodeEncodeAgree :
    Instr.wellFormed .powm = true ∧ decode 9#32 = .ok .powm ∧ decodeOpcode 9#4 = some .powm := by decide

/-- Meets the hypotheses of `ResetAbandonsTheRunningCommand`. -/
theorem witness_ResetAbandonsTheRunningCommand :
    (State.mk Operands.zero Operands.zero Results.zero true false false none 9 [.reset] []).events = [.reset] := by decide

/-- Meets the hypotheses of `EveryStepKeepsTheInvariant`. -/
theorem witness_EveryStepKeepsTheInvariant :
    State.reset.Inv ∧ nextOf (step (ready [.read 0])) ≠ none ∧
    (running .mexp Operands.zero).Inv ∧ nextOf (step (running .mexp Operands.zero)) ≠ none ∧
    (failed [.write 1 4#32]).Inv ∧ nextOf (step (failed [.write 1 4#32])) ≠ none := by decide

/-- Meets the hypotheses of `OnlyIrregularAccessesStop`. -/
theorem witness_OnlyIrregularAccessesStop :
    (ready [.irregular]).Inv ∧ nextOf (step (ready [.irregular])) = none := by decide

/-- Meets the hypotheses of `HostReadReturnsTheRegister`. -/
theorem witness_HostReadReturnsTheRegister :
    (ready [.read 0]).events = [.read 0] ∧ (ready [.read 8]).events = [.read 8] ∧ (8 ≤ 8) := by decide

/-- Meets the hypotheses of `OperandWriteStoresTheWord`. -/
theorem witness_OperandWriteStoresTheWord :
    (ready [.write 2 1#32]).events = [.write 2 1#32] ∧ (ready [.write 3 1#32]).events = [.write 3 1#32] ∧
    (ready [.write 4 1#32]).events = [.write 4 1#32] ∧ (failed [.write 5 1#32]).events = [.write 5 1#32] := by decide

/-- Meets the hypotheses of `ResultWriteIsIgnored`. -/
theorem witness_ResultWriteIsIgnored :
    (ready [.write 6 1#32]).events = [.write 6 1#32] ∧ (ready [.write 8 1#32]).events = [.write 8 1#32] ∧
    (6 ≤ 6 ∧ 6 ≤ 8) ∧ (6 ≤ 8 ∧ 8 ≤ 8) := by decide

/-- Meets the hypotheses of `StatusLayout`. -/
theorem witness_StatusLayout :
    (4#32).getLsbD 2 = (0xFFFFFFFF#32).getLsbD 2 := by decide

/-- Meets the hypotheses of `StatusWriteClearsTheError`. -/
theorem witness_StatusWriteClearsTheError :
    (failed [.write 1 4#32]).err = true ∧ (4#32).getLsbD 2 = true ∧
    (0xFFFFFFFB#32).getLsbD 2 = false ∧ (ready [.write 1 4#32]).err = false ∧
    (failed [.write 1 4#32, .write 0 (encode .eea)]).Inv := by decide

/-- Meets the hypotheses of `LegalWordIsAccepted`. -/
theorem witness_LegalWordIsAccepted :
    ((ready [.write 0 1#32]).events = [.write 0 1#32] ∧ (ready [.write 0 1#32]).busy = false ∧ (ready [.write 0 1#32]).err = false ∧ 1 ≤ (1#32).toNat ∧ (1#32).toNat ≤ 9) ∧
    ((ready [.write 0 9#32]).events = [.write 0 9#32] ∧ (ready [.write 0 9#32]).busy = false ∧ (ready [.write 0 9#32]).err = false ∧ 1 ≤ (9#32).toNat ∧ (9#32).toNat ≤ 9) := by decide

/-- Meets the hypotheses of `IllegalWordRaises`. -/
theorem witness_IllegalWordRaises :
    ((ready [.write 0 19#32]).events = [.write 0 19#32] ∧ (ready [.write 0 19#32]).busy = false ∧ (ready [.write 0 19#32]).err = false ∧ (19#32).extractLsb' 4 28 ≠ 0) ∧
    ((ready [.write 0 0#32]).events = [.write 0 0#32] ∧ (ready [.write 0 0#32]).busy = false ∧ (ready [.write 0 0#32]).err = false ∧ (0#32).extractLsb' 0 4 = 0) ∧
    ((ready [.write 0 10#32]).events = [.write 0 10#32] ∧ (ready [.write 0 10#32]).busy = false ∧ (ready [.write 0 10#32]).err = false ∧ 10 ≤ ((10#32).extractLsb' 0 4).toNat) := by decide

/-- Meets the hypotheses of `CommandWriteIsIgnoredWhileBusyOrInError`. -/
theorem witness_CommandWriteIsIgnoredWhileBusyOrInError :
    (running .eea Operands.zero).busy = true ∧ (failed [.write 0 1#32]).err = true ∧
    hostRead 8 (failed [.read 8]) = some 0 ∧ (4#32).getLsbD 2 = true ∧
    (failed []).Inv ∧ (failed []).events = [] := by decide

/-- Meets the hypotheses of `AccessOutsideTheRegistersChangesNothing`. -/
theorem witness_AccessOutsideTheRegistersChangesNothing :
    (ready [.write 9 1#32]).events = [.write 9 1#32] ∧ (ready [.read 9]).events = [.read 9] ∧ (9 ≤ 9) := by decide

/-- Meets the hypotheses of `IrregularAccessIsRefused`. -/
theorem witness_IrregularAccessIsRefused :
    (ready [.irregular]).events = [.irregular] := by decide

/-- Meets the hypotheses of `EngineRunsTheDecodedCommand`. -/
theorem witness_EngineRunsTheDecodedCommand :
    (running .eea Operands.zero).busy = true ∧ (running .eea Operands.zero).lastOp = opcodeOf .eea ∧
    (running .eea Operands.zero).events = [] ∧
    ({ running .powm Operands.zero with events := [.engine] } : State).events = [.engine] := by decide

/-- Meets the hypotheses of `PlacedWordIsRunNext`. -/
theorem witness_PlacedWordIsRunNext :
    decode 0#32 ≠ .ok .msb32 ∧ decode 0#32 = .error .opcodeUnassigned := by decide

/-- Meets the hypotheses of `EngineHasNoStepUnlessBusy`. -/
theorem witness_EngineHasNoStepUnlessBusy :
    (ready []).busy = false ∧ (ready []).events = [] ∧ (ready [.engine]).events = [.engine] := by decide

/-- Meets the hypotheses of `CompletionFollowsTheOutcome`. -/
theorem witness_CompletionFollowsTheOutcome :
    commandResult .msb32 ⟨0, 0, 0, 0⟩ = .err .bitScanOfZero ∧
    commandResult .msb32 ⟨43, 0, 0, 0⟩ = .ok [(.res0, 5)] := by decide

/-- Meets the hypotheses of `ErrorCausesOfEachCommand`. -/
theorem witness_ErrorCausesOfEachCommand :
    commandResult .msb32 ⟨0, 0, 0, 0⟩ = .err .bitScanOfZero ∧
    commandResult .invm ⟨2, 4, 0, 0⟩ = .err .noModularInverseExists ∧
    commandResult .mn1 ⟨44, 0, 0, 0⟩ = .err .noModularInverseExists ∧
    commandResult .mr1 ⟨0, 0, 0, 0⟩ = .err .modulusNonPositive ∧
    commandResult .mredc ⟨5, 32, 43, 61⟩ = .err .operandRange ∧
    commandResult .mexp ⟨5, 3, 2, 0⟩ = .err .noModularInverseExists ∧
    commandResult .powm ⟨5, 3, 0, 0⟩ = .err .modulusNonPositive := by decide

/-- Meets the hypotheses of `OnlyTheOperandsReadMatter`: the latches differ in what `EEA` ignores. -/
theorem witness_OnlyTheOperandsReadMatter :
    operandsAgree (operandCount .eea) ⟨240, 46, 1, 2⟩ ⟨240, 46, 3, 4⟩ ∧
    operandsAgree (operandCount .mredc) ⟨9, 4, 9, 7⟩ ⟨9, 4, 9, 7⟩ := by
  unfold operandsAgree; decide

/-- Meets the hypotheses of `IssuedCommandUsesTheOperandsAtIssue`. -/
theorem witness_IssuedCommandUsesTheOperandsAtIssue :
    (ready [.write 0 (encode .eea), .write 2 3#32, .engine]).Inv ∧
    (ready [.write 0 (encode .eea), .write 2 3#32, .engine]).busy = false ∧
    (ready [.write 0 (encode .eea), .write 2 3#32, .engine]).err = false ∧
    commandResult .npow2 Operands.zero = .ok [(.res0, 1)] ∧
    commandResult .msb32 Operands.zero = .err .bitScanOfZero := by decide

/-- Meets the hypotheses of `CallRunsTheCommandOnItsOperands`. -/
theorem witness_CallRunsTheCommandOnItsOperands :
    (ready (callEvents .eea ⟨240, 46, 0, 0⟩ 2 ++ [.reset])).Inv ∧
    (ready (callEvents .eea ⟨240, 46, 0, 0⟩ 2 ++ [.reset])).busy = false ∧
    (ready (callEvents .eea ⟨240, 46, 0, 0⟩ 2 ++ [.reset])).err = false ∧
    callEvents .eea ⟨240, 46, 0, 0⟩ 1 =
      [.write 2 240#32, .write 3 46#32, .write 0 3#32, .read 1, .engine, .read 1] := by decide

/-- Meets the hypotheses of `OnlyTheHostAndResetChangeOperands`. -/
theorem witness_OnlyTheHostAndResetChangeOperands :
    (nextOf (step (ready [.write 5 7#32]))).map State.op = some ⟨0, 0, 0, 7⟩ := by decide

/-- Meets the hypotheses of `OnlyErrorFreeCompletionAndResetChangeResults`. -/
theorem witness_OnlyErrorFreeCompletionAndResetChangeResults :
    (running .npow2 Operands.zero).Inv ∧
    (nextOf (step (running .npow2 Operands.zero))).map State.res = some ⟨1, 0, 0⟩ := by decide

/-- Meets the hypotheses of `OnlyAcceptanceAndResetChangeLatches`. -/
theorem witness_OnlyAcceptanceAndResetChangeLatches :
    (nextOf (step { ready [.write 0 1#32] with op := ⟨8, 0, 0, 0⟩ })).map State.lat = some ⟨8, 0, 0, 0⟩ := by decide

/-- Meets the hypotheses of `ErrorStaysUntilCleared`. -/
theorem witness_ErrorStaysUntilCleared :
    (failed [.write 0 1#32]).Inv ∧ (failed [.write 0 1#32]).err = true ∧
    nextOf (step (failed [.write 0 1#32])) = some (failed []) := by decide

/-- Meets the hypotheses of `OnlyCompletionAndResetEndACommand`. -/
theorem witness_OnlyCompletionAndResetEndACommand :
    (running .eea Operands.zero).busy = true ∧
    (nextOf (step (running .eea Operands.zero))).map State.busy = some false := by decide

/-- Meets the hypotheses of `InterleavingDoesNotChangeTheOutcome`. -/
theorem witness_InterleavingDoesNotChangeTheOutcome :
    (running .eea ⟨240, 46, 0, 0⟩).Inv ∧ (running .eea ⟨240, 46, 0, 0⟩).busy = true ∧
    (∀ e ∈ [Event.write 2 3#32, .read 6, .write 0 4#32, .write 1 4#32], e.isHostAccess = true) := by decide

/-- Meets the hypotheses of `EveryAcceptedCommandCompletes`. -/
theorem witness_EveryAcceptedCommandCompletes :
    (running .mexp ⟨32, 56, 43, 0⟩).Inv ∧ (running .mexp ⟨32, 56, 43, 0⟩).busy = true ∧
    (∀ e ∈ [Event.read 1, .write 2 3#32, .engine], e.isOrdinary = true) := by decide

/-- Meets the hypotheses of `ResultsBelongToTheLastCommand`: a completed `INVM(3, 7)`. -/
theorem witness_ResultsBelongToTheLastCommand :
    (finished [.read 6]).Inv ∧ (finished [.read 6]).outcomeCurrent ∧
    (∃ t, step (finished [.read 6]) = .next t ∧ t.done = true) :=
  ⟨by decide,
   ⟨fun _ => ⟨.invm, [(.res0, 5)], Results.zero, by decide, by decide, by decide⟩,
    fun _ h => by cases h⟩,
   _, rfl, rfl⟩

/-- Meets the hypotheses of `Msb32DeliversTheTopBit`. -/
theorem witness_Msb32DeliversTheTopBit :
    ((running .msb32 ⟨0, 0, 0, 0⟩).lat.op0 = 0) ∧
    ((running .msb32 ⟨1, 0, 0, 0⟩).lat.op0 ≠ 0) ∧
    ((running .msb32 ⟨4294967295, 0, 0, 0⟩).lat.op0 ≠ 0) := by decide

/-- Meets the hypotheses of `Npow2DeliversTheNextPowerOfTwo`. -/
theorem witness_Npow2DeliversTheNextPowerOfTwo :
    ((running .npow2 ⟨2147483647, 0, 0, 0⟩).lat.op0.toNat < 2 ^ 31) ∧
    (2 ^ 31 ≤ (running .npow2 ⟨2147483648, 0, 0, 0⟩).lat.op0.toNat) := by decide

/-- Meets the hypotheses of `NextPow2IsTheRadixOfMsb32`. -/
theorem witness_NextPow2IsTheRadixOfMsb32 :
    (1 ≤ 2147483647 ∧ 2147483647 < 2 ^ 31) ∧ (2 ^ 31 ≤ 2147483648 ∧ 2147483648 < 2 ^ 32) := by decide

/-- Meets the hypotheses of `SolverFollowsTheDerivation`. -/
theorem witness_SolverFollowsTheDerivation :
    (46 : Int) ≠ 0 ∧ eea 240 46 = { d := 2, x := -9, y := 47 } := by decide

/-- Meets the hypotheses of `SolverSatisfiesBezout`. -/
theorem witness_SolverSatisfiesBezout :
    (0 ≤ (240 : Int) ∧ 0 ≤ (46 : Int)) ∧ (eea (-4) 3).d = -1 := by decide

/-- Meets the hypotheses of `SolverResultsFitTheRegisters`. -/
theorem witness_SolverResultsFitTheRegisters :
    (-2 ^ 31 ≤ (-2147483648 : Int) ∧ (-2147483648 : Int) < 2 ^ 31) ∧
    (-2 ^ 31 ≤ (2147483647 : Int) ∧ (2147483647 : Int) < 2 ^ 31) ∧
    eea (-2147483648) 2147483647 = { d := -1, x := 1, y := 1 } := by decide

/-- Meets the hypotheses of `EeaDeliversTheTriple`. -/
theorem witness_EeaDeliversTheTriple :
    ((3 : Int) ≠ 0 ∧ (3 : Int) ∣ 6) ∧ (3 : Int).natAbs < (6 : Int).natAbs ∧
    eea 6 3 = { d := 3, x := 0, y := 1 } ∧ eea 3 6 = { d := 3, x := 1, y := 0 } := by decide

/-- Meets the hypotheses of `InverseIsTheResidue`. -/
theorem witness_InverseIsTheResidue :
    inverseM 3 7 = .ok 5 ∧ inverseM 5 1 = .ok 0 ∧ (0 ≤ (3 : Int) ∧ 1 ≤ (7 : Int)) ∧ Int.gcd 3 7 = 1 := by decide

/-- Meets the hypotheses of `InvmDeliversTheInverse`. -/
theorem witness_InvmDeliversTheInverse :
    (s32 (running .invm ⟨7, 0, 0, 0⟩).lat.op1 ≤ 0) ∧
    (0 < s32 (running .invm ⟨2, 4, 0, 0⟩).lat.op1 ∧ (eea (s32 (running .invm ⟨2, 4, 0, 0⟩).lat.op0) (s32 (running .invm ⟨2, 4, 0, 0⟩).lat.op1)).d ≠ 1) ∧
    (0 < s32 (running .invm ⟨5, 1, 0, 0⟩).lat.op1 ∧ (eea (s32 (running .invm ⟨5, 1, 0, 0⟩).lat.op0) (s32 (running .invm ⟨5, 1, 0, 0⟩).lat.op1)).d = 1) := by decide

/-- Meets the hypotheses of `Mn1DeliversTheNegatedInverse`. -/
theorem witness_Mn1DeliversTheNegatedInverse :
    ((running .mn1 ⟨0, 0, 0, 0⟩).lat.op0.toNat = 0) ∧
    (2 ^ 31 ≤ (running .mn1 ⟨2147483648, 0, 0, 0⟩).lat.op0.toNat) ∧
    (1 ≤ (running .mn1 ⟨2, 0, 0, 0⟩).lat.op0.toNat ∧ (running .mn1 ⟨2, 0, 0, 0⟩).lat.op0.toNat < 2 ^ 31 ∧ (running .mn1 ⟨2, 0, 0, 0⟩).lat.op0.toNat % 2 = 0) ∧
    ((running .mn1 ⟨1, 0, 0, 0⟩).lat.op0.toNat < 2 ^ 31 ∧ (running .mn1 ⟨1, 0, 0, 0⟩).lat.op0.toNat % 2 = 1) ∧
    ((running .mn1 ⟨2147483647, 0, 0, 0⟩).lat.op0.toNat < 2 ^ 31 ∧ (running .mn1 ⟨2147483647, 0, 0, 0⟩).lat.op0.toNat % 2 = 1) := by decide

/-- Meets the hypotheses of `Mr1DeliversTheRadixInverse`. -/
theorem witness_Mr1DeliversTheRadixInverse :
    ((running .mr1 ⟨0, 0, 0, 0⟩).lat.op0.toNat = 0) ∧
    (2 ^ 31 ≤ (running .mr1 ⟨2147483648, 0, 0, 0⟩).lat.op0.toNat) ∧
    (1 ≤ (running .mr1 ⟨2, 0, 0, 0⟩).lat.op0.toNat ∧ (running .mr1 ⟨2, 0, 0, 0⟩).lat.op0.toNat < 2 ^ 31 ∧ (running .mr1 ⟨2, 0, 0, 0⟩).lat.op0.toNat % 2 = 0) ∧
    ((running .mr1 ⟨1, 0, 0, 0⟩).lat.op0.toNat < 2 ^ 31 ∧ (running .mr1 ⟨1, 0, 0, 0⟩).lat.op0.toNat % 2 = 1) ∧
    ((running .mr1 ⟨2147483647, 0, 0, 0⟩).lat.op0.toNat < 2 ^ 31 ∧ (running .mr1 ⟨2147483647, 0, 0, 0⟩).lat.op0.toNat % 2 = 1) := by decide

/-- Meets the hypotheses of `MontgomeryUnitRelation`. -/
theorem witness_MontgomeryUnitRelation :
    (1 % 2 = 1 ∧ 1 < 2 ^ 31) ∧ (2147483647 % 2 = 1 ∧ 2147483647 < 2 ^ 31 ∧ 3 ≤ 2147483647) ∧
    montgomeryN1 43 = .ok 61 ∧ montgomeryR1 43 = .ok 41 := by decide

/-- Meets the hypotheses of `ReductionLaws`. -/
theorem witness_ReductionLaws :
    1 ≤ 9 ∧ 2 ^ 4 ∣ 9 * 7 + 1 ∧ 9 < 2 ^ 4 * 9 ∧ redc 9 4 9 7 = 0 := by decide

/-- Meets the hypotheses of `MredcDeliversTheReduction`. -/
theorem witness_MredcDeliversTheReduction :
    (s32 (running .mredc ⟨4294967295, 6, 0, 61⟩).lat.op2 ≤ 0) ∧
    (0 < s32 (running .mredc ⟨5, 32, 43, 61⟩).lat.op2 ∧ 31 < s32 (running .mredc ⟨5, 32, 43, 61⟩).lat.op1) ∧
    (0 < s32 (running .mredc ⟨4294967295, 6, 43, 61⟩).lat.op2 ∧ s32 (running .mredc ⟨4294967295, 6, 43, 61⟩).lat.op0 < 0) ∧
    (0 < s32 (running .mredc ⟨0, 31, 1, 0⟩).lat.op2 ∧ 0 ≤ s32 (running .mredc ⟨0, 31, 1, 0⟩).lat.op0 ∧ 0 ≤ s32 (running .mredc ⟨0, 31, 1, 0⟩).lat.op1 ∧ s32 (running .mredc ⟨0, 31, 1, 0⟩).lat.op1 ≤ 31 ∧ 0 ≤ s32 (running .mredc ⟨0, 31, 1, 0⟩).lat.op3) := by decide

/-- Meets the hypotheses of `MexpDeliversThePower`. -/
theorem witness_MexpDeliversThePower :
    ((running .mexp ⟨5, 3, 0, 0⟩).lat.op2.toNat = 0) ∧
    (2 ^ 31 ≤ (running .mexp ⟨5, 3, 2147483648, 0⟩).lat.op2.toNat) ∧
    (1 ≤ (running .mexp ⟨4294967295, 5, 44, 0⟩).lat.op2.toNat ∧ (running .mexp ⟨4294967295, 5, 44, 0⟩).lat.op2.toNat < 2 ^ 31 ∧ s32 (running .mexp ⟨4294967295, 5, 44, 0⟩).lat.op0 < 0) ∧
    (1 ≤ (running .mexp ⟨5, 0, 2, 0⟩).lat.op2.toNat ∧ (running .mexp ⟨5, 0, 2, 0⟩).lat.op2.toNat < 2 ^ 31 ∧ 0 ≤ s32 (running .mexp ⟨5, 0, 2, 0⟩).lat.op0 ∧ 0 ≤ s32 (running .mexp ⟨5, 0, 2, 0⟩).lat.op1 ∧ (running .mexp ⟨5, 0, 2, 0⟩).lat.op2.toNat % 2 = 0) ∧
    ((running .mexp ⟨0, 0, 1, 0⟩).lat.op2.toNat < 2 ^ 31 ∧ 0 ≤ s32 (running .mexp ⟨0, 0, 1, 0⟩).lat.op0 ∧ 0 ≤ s32 (running .mexp ⟨0, 0, 1, 0⟩).lat.op1 ∧ (running .mexp ⟨0, 0, 1, 0⟩).lat.op2.toNat % 2 = 1) := by decide

/-- Meets the hypotheses of `PowmDeliversThePower`. -/
theorem witness_PowmDeliversThePower :
    (s32 (running .powm ⟨5, 3, 2147483648, 0⟩).lat.op2 ≤ 0) ∧
    (0 < s32 (running .powm ⟨5, 4294967295, 1, 0⟩).lat.op2 ∧ s32 (running .powm ⟨5, 4294967295, 1, 0⟩).lat.op1 < 0) ∧
    (0 < s32 (running .powm ⟨0, 0, 1, 0⟩).lat.op2 ∧ 0 ≤ s32 (running .powm ⟨0, 0, 1, 0⟩).lat.op0 ∧ 0 ≤ s32 (running .powm ⟨0, 0, 1, 0⟩).lat.op1 ∧ (running .powm ⟨0, 0, 1, 0⟩).lat.op1 = 0) ∧
    (0 < s32 (running .powm ⟨5, 3, 2, 0⟩).lat.op2 ∧ 0 ≤ s32 (running .powm ⟨5, 3, 2, 0⟩).lat.op0 ∧ 0 ≤ s32 (running .powm ⟨5, 3, 2, 0⟩).lat.op1 ∧ (running .powm ⟨5, 3, 2, 0⟩).lat.op1 ≠ 0) := by decide

/-- Meets the hypotheses of `ExponentiationsAgree`. -/
theorem witness_ExponentiationsAgree :
    (3 ≤ s32 (running .mexp ⟨5, 1, 3, 0⟩).lat.op2 ∧ s32 (running .mexp ⟨5, 1, 3, 0⟩).lat.op2 % 2 = 1 ∧ 0 ≤ s32 (running .mexp ⟨5, 1, 3, 0⟩).lat.op0 ∧ 0 ≤ s32 (running .mexp ⟨5, 1, 3, 0⟩).lat.op1) ∧
    ((running .mexp ⟨5, 0, 1, 0⟩).lat.op2 = 1 ∧ 0 ≤ s32 (running .mexp ⟨5, 0, 1, 0⟩).lat.op0 ∧ 0 ≤ s32 (running .mexp ⟨5, 0, 1, 0⟩).lat.op1) ∧
    (2 ≤ s32 (running .mexp ⟨5, 0, 2, 0⟩).lat.op2 ∧ s32 (running .mexp ⟨5, 0, 2, 0⟩).lat.op2 % 2 = 0 ∧ 0 ≤ s32 (running .mexp ⟨5, 0, 2, 0⟩).lat.op0 ∧ 0 ≤ s32 (running .mexp ⟨5, 0, 2, 0⟩).lat.op1) ∧
    (s32 (running .mexp ⟨5, 3, 0, 0⟩).lat.op2 ≤ 0) ∧
    (0 < s32 (running .mexp ⟨4294967295, 5, 1, 0⟩).lat.op2 ∧ s32 (running .mexp ⟨4294967295, 5, 1, 0⟩).lat.op0 < 0) := by decide

end Sys2Proof.Tests
end

/-!
PROOFS. The family of `spec/00_scope.md`: the conversions of R7, the division of R8, and the purity
of a command's outcome (R12, with the operand table of `spec/30_encoding.md` R62).
-/

namespace Sys2Proof.Proofs.Scope

open Sys2Proof.Machine

/-! ## Conversions (R7) -/

theorem u32_lt (b : Word) : u32 b < 2 ^ 32 := b.isLt

/-- The positions of the one-bits of a pattern, all below the register's width. -/
theorem toFinset_bitIndices_u32 (b : Word) :
    (u32 b).bitIndices.toFinset = (Finset.range 32).filter (fun i => b.getLsbD i = true) := by
  ext i
  simp only [List.mem_toFinset, Nat.mem_bitIndices, Finset.mem_filter, Finset.mem_range, u32,
    BitVec.testBit_toNat]
  exact ⟨fun h => ⟨BitVec.lt_of_getLsbD h, h⟩, fun h => h.2⟩

theorem u32_eq_sum_bits (b : Word) :
    (u32 b : Int) = (Finset.range 32).sum (fun i => if b.getLsbD i then (2 : Int) ^ i else 0) := by
  have h : u32 b = ∑ i ∈ (Finset.range 32).filter (fun i => b.getLsbD i = true), 2 ^ i := by
    rw [← toFinset_bitIndices_u32, Finset.sum_toFinset_bitIndices_two_pow]
  rw [← Finset.sum_filter, h]
  push_cast
  rfl

theorem s32_of_bit31_clear {b : Word} (h : b.getLsbD 31 = false) : s32 b = u32 b := by
  rw [s32, h]
  rfl

theorem s32_of_bit31_set {b : Word} (h : b.getLsbD 31 = true) :
    s32 b = (u32 b : Int) - 2 ^ 32 := by
  rw [s32, h]
  rfl

theorem s32_bounds (b : Word) : -2 ^ 31 ≤ s32 b ∧ s32 b < 2 ^ 31 := by
  rw [s32_eq_toInt]
  exact ⟨b.le_toInt, b.toInt_lt⟩

theorem u32_wrap32 (v : Int) : (u32 (wrap32 v) : Int) = v % 2 ^ 32 := by
  rw [u32, wrap32_eq_ofInt, BitVec.toNat_ofInt]
  omega

theorem dvd_sub_u32_wrap32 (v : Int) : (2 ^ 32 : Int) ∣ v - u32 (wrap32 v) := by
  rw [u32_wrap32]
  exact Int.dvd_self_sub_emod

theorem s32_wrap32_of_mem {v : Int} (hlo : -2 ^ 31 ≤ v) (hhi : v < 2 ^ 31) :
    s32 (wrap32 v) = v := by
  rw [s32_eq_toInt, wrap32_eq_ofInt]
  exact BitVec.toInt_ofInt_eq_self (by decide) hlo hhi

theorem u32_wrap32_of_mem {v : Int} (hlo : 0 ≤ v) (hhi : v < 2 ^ 32) :
    (u32 (wrap32 v) : Int) = v := by
  rw [u32_wrap32, Int.emod_eq_of_lt hlo hhi]

/-- Settles O1: each conversion read through its library counterpart. -/
theorem wordConversions : Obligations.WordConversions :=
  ⟨fun b => ⟨u32_lt b, u32_eq_sum_bits b⟩,
    fun b => ⟨s32_of_bit31_clear, s32_of_bit31_set, s32_bounds b⟩,
    dvd_sub_u32_wrap32,
    fun _ => s32_wrap32_of_mem,
    fun _ => u32_wrap32_of_mem⟩

/-! ## Truncating division (R8) -/

theorem natAbs_trem_lt (a : Int) {b : Int} (hb : b ≠ 0) : (trem a b).natAbs < b.natAbs := by
  rw [trem_eq_tmod, Int.natAbs_tmod]
  exact Nat.mod_lt _ (Int.natAbs_pos.mpr hb)

/-- The two cases are whether `b` divides `a`. -/
theorem trem_eq_zero_or_sign_eq (a b : Int) : trem a b = 0 ∨ (trem a b).sign = a.sign := by
  rw [trem_eq_tmod]
  by_cases h : b ∣ a
  · exact .inl (Int.tmod_eq_zero_of_dvd h)
  · right
    rw [Int.sign_tmod, if_neg h]

/-- Settles O2: `tdiv` and `trem` are the library's truncating quotient and remainder; the examples
of R8 are evaluated. -/
theorem truncatingDivision : Obligations.TruncatingDivision :=
  ⟨fun a _ hb => ⟨rfl, rfl, natAbs_trem_lt a hb, trem_eq_zero_or_sign_eq a _⟩, by decide⟩

/-! ## The outcome of a command (R12, R62) -/

@[simp] theorem operandsAgree_one (l m : Operands) :
    operandsAgree 1 l m ↔ l.op0 = m.op0 := by
  simp [operandsAgree]

@[simp] theorem operandsAgree_two (l m : Operands) :
    operandsAgree 2 l m ↔ l.op0 = m.op0 ∧ l.op1 = m.op1 := by
  simp [operandsAgree]

@[simp] theorem operandsAgree_three (l m : Operands) :
    operandsAgree 3 l m ↔ l.op0 = m.op0 ∧ l.op1 = m.op1 ∧ l.op2 = m.op2 := by
  simp [operandsAgree]

@[simp] theorem operandsAgree_four (l m : Operands) :
    operandsAgree 4 l m ↔
      l.op0 = m.op0 ∧ l.op1 = m.op1 ∧ l.op2 = m.op2 ∧ l.op3 = m.op3 := by
  simp [operandsAgree]

/-- A command's rule reads no operand beyond its count (R62). -/
theorem commandResult_eq_of_operandsAgree {i : Instr} {l m : Operands}
    (h : operandsAgree (operandCount i) l m) : commandResult i l = commandResult i m := by
  cases i with
  | msb32 => simp only [commandResult, msb32Result, (operandsAgree_one l m).mp h]
  | npow2 => simp only [commandResult, npow2Result, (operandsAgree_one l m).mp h]
  | eea => simp only [commandResult, eeaResult, (operandsAgree_two l m).mp h]
  | invm => simp only [commandResult, invmResult, (operandsAgree_two l m).mp h]
  | mn1 => simp only [commandResult, mn1Result, (operandsAgree_one l m).mp h]
  | mr1 => simp only [commandResult, mr1Result, (operandsAgree_one l m).mp h]
  | mredc => simp only [commandResult, mredcResult, (operandsAgree_four l m).mp h]
  | mexp => simp only [commandResult, mexpResult, (operandsAgree_three l m).mp h]
  | powm => simp only [commandResult, powmResult, (operandsAgree_three l m).mp h]

/-- A completion determines the results and the flags from the outcome and their values before. -/
theorem complete_results_flags_eq (out : CommandResult) {s s' : State} (hres : s.res = s'.res)
    (hdone : s.done = s'.done) (herr : s.err = s'.err) (hcause : s.cause = s'.cause) :
    (complete out s).res = (complete out s').res ∧ (complete out s).busy = (complete out s').busy ∧
      (complete out s).done = (complete out s').done ∧ (complete out s).err = (complete out s').err ∧
      (complete out s).cause = (complete out s').cause := by
  cases out with
  | ok ws => simp [hres, herr, hcause]
  | err c => simp [hres, hdone]

/-- Settles O27: the two commands have one outcome, and a completion turns equal results and flags
into equal results and flags. -/
theorem onlyTheOperandsReadMatter : Obligations.OnlyTheOperandsReadMatter := by
  intro i s s' hlat hres hdone herr hcause
  refine ⟨_, _, exec_eq_complete i s, exec_eq_complete i s', ?_⟩
  rw [commandResult_eq_of_operandsAgree hlat]
  exact complete_results_flags_eq _ hres hdone herr hcause

end Sys2Proof.Proofs.Scope

/-!
PROOFS. The family of `spec/10_state.md`: reset values (R32), the layout of `STATUS` (R24), the
invariant of R25 and R26, the frame of every command, which transition changes which register, and
the independence of a running command from the host's accesses (R29, R30).
-/

namespace Sys2Proof.Proofs.BlockState

open Sys2Proof.Machine

/-! ## The causes a command can raise (`spec/60_exceptions.md` R130) -/

theorem inverseM_error {a m : Int} {c : Cause} (h : inverseM a m = .error c) :
    c = .modulusNonPositive ∨ c = .noModularInverseExists := by
  simp only [inverseM] at h
  split_ifs at h <;> cases h
  · exact .inl rfl
  · exact .inr rfl

theorem radix_error {n : Nat} {c : Cause} (h : radix n = .error c) : c = .modulusNonPositive := by
  simp only [radix] at h
  split_ifs at h
  cases h
  rfl

theorem montgomeryN1_error {n : Nat} {c : Cause} (h : montgomeryN1 n = .error c) :
    c = .modulusNonPositive ∨ c = .noModularInverseExists := by
  simp only [montgomeryN1] at h
  split at h
  · next hr =>
    cases h
    exact .inl (radix_error hr)
  · split at h <;> cases h
    next hi => exact inverseM_error hi

theorem montgomeryR1_error {n : Nat} {c : Cause} (h : montgomeryR1 n = .error c) :
    c = .modulusNonPositive ∨ c = .noModularInverseExists := by
  simp only [montgomeryR1] at h
  split at h
  · next hr =>
    cases h
    exact .inl (radix_error hr)
  · exact inverseM_error h

theorem montgomeryReduce_error {a k n n1 : Int} {c : Cause}
    (h : montgomeryReduce a k n n1 = .error c) : c = .modulusNonPositive ∨ c = .operandRange := by
  simp only [montgomeryReduce] at h
  split_ifs at h <;> cases h
  · exact .inl rfl
  · exact .inr rfl

theorem powm_error {a d n : Int} {c : Cause} (h : powm a d n = .error c) :
    c = .modulusNonPositive ∨ c = .operandRange := by
  simp only [powm] at h
  split_ifs at h <;> cases h
  · exact .inl rfl
  · exact .inr rfl

/-- A modulus with a radix has a most significant bit. -/
theorem msb32_isSome_of_radix_ok {n r : Nat} (h : radix n = .ok r) : (msb32 n).isSome = true := by
  simp only [radix] at h
  split_ifs at h with hn
  have hn0 : n ≠ 0 := fun h0 => hn (.inl h0)
  simp [msb32, hn0]

theorem montgomery_error {x d : Int} {n : Nat} {c : Cause} (h : montgomery x d n = .error c) :
    c = .modulusNonPositive ∨ c = .operandRange ∨ c = .noModularInverseExists := by
  have weaken : c = .modulusNonPositive ∨ c = .noModularInverseExists →
      c = .modulusNonPositive ∨ c = .operandRange ∨ c = .noModularInverseExists :=
    Or.imp_right .inr
  simp only [montgomery] at h
  split at h
  · next hr =>
    cases h
    exact .inl (radix_error hr)
  · next hr =>
    split_ifs at h
    · cases h
      exact .inr (.inl rfl)
    · split at h
      · next hb => simpa [hb] using msb32_isSome_of_radix_ok hr
      · next hn1 =>
        cases h
        exact weaken (montgomeryN1_error hn1)
      · next hr1 =>
        cases h
        exact weaken (montgomeryR1_error hr1)
      · cases h

@[simp] theorem deliverRes0_eq_err {v : Except Cause Int} {c : Cause} :
    deliverRes0 v = .err c ↔ v = .error c := by
  cases v <;> simp [deliverRes0]

/-- Every command but `EEA` has one result, and it goes to `RES0` (`spec/30_encoding.md` R62). -/
theorem commandResult_eq_deliverRes0 {i : Instr} (hi : i ≠ .eea) (l : Operands) :
    ∃ v, commandResult i l = deliverRes0 v := by
  cases i with
  | msb32 =>
    simp only [commandResult, msb32Result]
    split
    · exact ⟨_, rfl⟩
    · exact ⟨.error .bitScanOfZero, rfl⟩
  | eea => exact absurd rfl hi
  | npow2 => exact ⟨.ok (nextPow2 (u32 l.op0)), rfl⟩
  | invm => exact ⟨inverseM (s32 l.op0) (s32 l.op1), rfl⟩
  | mn1 => exact ⟨montgomeryN1 (u32 l.op0), rfl⟩
  | mr1 => exact ⟨montgomeryR1 (u32 l.op0), rfl⟩
  | mredc => exact ⟨montgomeryReduce (s32 l.op0) (s32 l.op1) (s32 l.op2) (s32 l.op3), rfl⟩
  | mexp => exact ⟨montgomery (s32 l.op0) (s32 l.op1) (u32 l.op2), rfl⟩
  | powm => exact ⟨powm (s32 l.op0) (s32 l.op1) (s32 l.op2), rfl⟩

/-- The table of R130: a command raises only causes its opcode allows, and never
`IllegalCommand`. -/
theorem causeAllowed_of_commandResult_err {i : Instr} {l : Operands} {c : Cause}
    (h : commandResult i l = .err c) :
    causeAllowed (opcodeOf i) c = true ∧ c ≠ .illegalCommand := by
  cases i with
  | msb32 =>
    simp only [commandResult, msb32Result] at h
    split at h <;> cases h
    decide
  | npow2 => cases h
  | eea => cases h
  | invm => obtain rfl | rfl := inverseM_error (deliverRes0_eq_err.mp h) <;> decide
  | mn1 => obtain rfl | rfl := montgomeryN1_error (deliverRes0_eq_err.mp h) <;> decide
  | mr1 => obtain rfl | rfl := montgomeryR1_error (deliverRes0_eq_err.mp h) <;> decide
  | mredc => obtain rfl | rfl := montgomeryReduce_error (deliverRes0_eq_err.mp h) <;> decide
  | mexp => obtain rfl | rfl | rfl := montgomery_error (deliverRes0_eq_err.mp h) <;> decide
  | powm => obtain rfl | rfl := powm_error (deliverRes0_eq_err.mp h) <;> decide

/-! ## Decoding, as far as acceptance needs it (`spec/30_encoding.md` R61) -/

theorem opcodeOf_of_decodeOpcode {op : Nibble} {i : Instr} (h : decodeOpcode op = some i) :
    op = opcodeOf i := by
  unfold decodeOpcode at h
  split at h <;> cases h <;> exact BitVec.eq_of_toNat_eq ‹_›

theorem decode_eq_ok {w : Word} {i : Instr} (h : decode w = .ok i) :
    zeroField w = 0 ∧ decodeOpcode (opcodeField w) = some i := by
  unfold decode at h
  split_ifs at h with hz
  split at h <;> cases h
  next hd => exact ⟨not_not.mp hz, hd⟩

/-- A word is its two fields side by side (R60). -/
theorem zeroField_append_opcodeField (w : Word) : zeroField w ++ opcodeField w = w := by
  rw [zeroField, opcodeField, BitVec.extractLsb'_append_extractLsb'_eq_extractLsb' (by rfl)]
  exact BitVec.extractLsb'_eq_self

theorem eq_encode_of_decode {w : Word} {i : Instr} (h : decode w = .ok i) : w = encode i := by
  obtain ⟨hz, hd⟩ := decode_eq_ok h
  rw [← zeroField_append_opcodeField w, hz, opcodeOf_of_decodeOpcode hd, encode]

/-! ## What a host write, the engine and a step can do -/

/-- The five effects of a host write: none, acceptance, rejection, the error cleared, an operand
stored. -/
theorem hostWrite_effects (i : Nat) (v : Word) (s : State) :
    hostWrite i v s = s ∨
    (i = 0 ∧ s.busy = false ∧ s.err = false ∧ (∃ j, decode v = .ok j) ∧
      hostWrite i v s = acceptCommand v s) ∨
    (i = 0 ∧ s.busy = false ∧ s.err = false ∧ hostWrite i v s = rejectCommand v s) ∨
    (s.err = true ∧ hostWrite i v s = { s with err := false, cause := none }) ∨
    (2 ≤ i ∧ i ≤ 5 ∧ ∃ o, hostWrite i v s = { s with op := o }) := by
  obtain ⟨hi, h⟩ | ⟨-, h⟩ | ⟨hlo, hhi, hop⟩ | ⟨-, h⟩ := hostWrite_cases i v s
  · rw [h]
    obtain ⟨-, hc⟩ | ⟨hb, he, hd, hc⟩ | ⟨hb, he, -, hc⟩ := writeCommand_cases v s
    · exact .inl hc
    · exact .inr (.inl ⟨hi, hb, he, hd, hc⟩)
    · exact .inr (.inr (.inl ⟨hi, hb, he, hc⟩))
  · rw [h]
    obtain ⟨-, he, hc⟩ | ⟨-, hc⟩ := writeStatus_cases v s
    · exact .inr (.inr (.inr (.inl ⟨he, hc⟩)))
    · exact .inl hc
  · exact .inr (.inr (.inr (.inr ⟨hlo, hhi, hop⟩)))
  · exact .inl h

/-- No host write reaches a result register (`spec/20_memory.md` R48). -/
@[simp] theorem hostWrite_res (i : Nat) (v : Word) (s : State) : (hostWrite i v s).res = s.res := by
  obtain h | ⟨-, -, -, -, h⟩ | ⟨-, -, -, h⟩ | ⟨-, h⟩ | ⟨-, -, o, h⟩ := hostWrite_effects i v s <;>
    simp [h]

/-- While a command runs without an error, a host write can only store an operand (R45, R46,
R47). -/
theorem hostWrite_of_running (i : Nat) (v : Word) {s : State} (hb : s.busy = true)
    (he : s.err = false) : ∃ o, hostWrite i v s = { s with op := o } := by
  obtain h | ⟨-, hb', -⟩ | ⟨-, hb', -⟩ | ⟨he', -⟩ | ⟨-, -, h⟩ := hostWrite_effects i v s
  · exact ⟨s.op, h⟩
  · simp [hb] at hb'
  · simp [hb] at hb'
  · simp [he] at he'
  · exact h

/-- The engine's turn without a fault: nothing while not busy, else the completion of the command
in `LASTOP`. -/
theorem engineStep_next {s t : State} (h : engineStep s = .next t) :
    (s.busy = false ∧ t = s) ∨
    (s.busy = true ∧ ∃ i, decodeOpcode s.lastOp = some i ∧
      t = complete (commandResult i s.lat) s) := by
  obtain ⟨hb, he⟩ | ⟨hb, i, hi, he⟩ | ⟨-, -, he⟩ := engineStep_cases s <;> rw [he] at h <;> cases h
  · exact .inl ⟨hb, rfl⟩
  · exact .inr ⟨hb, i, hi, rfl⟩

/-- `step_next_cases` with its two ways to reach the engine taken together. -/
theorem step_next_transition {s t : State} (h : step s = .next t) :
    (s.enginesTurn ∧ ∃ es, engineStep { s with events := es } = .next t) ∨
    (∃ i rest, s.events = .read i :: rest ∧ t = hostReads i { s with events := rest }) ∨
    (∃ i v rest, s.events = .write i v :: rest ∧ t = hostWrite i v { s with events := rest }) ∨
    (∃ rest, s.events = .reset :: rest ∧ t = resetBlock { s with events := rest }) := by
  obtain ⟨hev, he⟩ | hread | hwrite | ⟨rest, hev, he⟩ | hreset := step_next_cases h
  · exact .inl ⟨.inl hev, s.events, he⟩
  · exact .inr (.inl hread)
  · exact .inr (.inr (.inl hwrite))
  · exact .inl ⟨.inr ⟨rest, hev⟩, rest, he⟩
  · exact .inr (.inr (.inr hreset))

/-- Settles O23: the engine's turn is `engineStep`, which does nothing while not busy. -/
theorem engineHasNoStepUnlessBusy : Obligations.EngineHasNoStepUnlessBusy := by
  intro s hb
  refine ⟨fun hev => ?_, fun rest hev => ?_⟩
  · rw [step_of_events_nil hev]
    simp [engineStep, hb]
  · rw [step_of_events_cons hev]
    simp [runEvent, engineStep, hb]

/-! ## The invariant (R25, R26) -/

/-- While a command runs no error and no completion is shown. -/
theorem flags_of_busy {s : State} (hinv : s.Inv) (hb : s.busy = true) :
    s.done = false ∧ s.err = false := by
  obtain ⟨⟨hbd, hbe, -⟩, -, -⟩ := hinv
  simpa [hb] using And.intro hbd hbe

theorem cause_eq_none_of_no_error {s : State} (hinv : s.Inv) (he : s.err = false) :
    s.cause = none := by
  obtain ⟨-, ⟨hsome, -⟩, -⟩ := hinv
  simpa [he] using hsome

/-- An error excludes a running and a completed command. -/
theorem flags_of_error {s : State} (hinv : s.Inv) (he : s.err = true) :
    s.busy = false ∧ s.done = false := by
  obtain ⟨⟨-, hbe, hde⟩, -, -⟩ := hinv
  simpa [he] using And.intro hbe hde

/-- The states of the invariant without an error. -/
theorem inv_of_no_error {s : State} (hbd : (s.busy && s.done) = false) (he : s.err = false)
    (hc : s.cause = none) (hop : s.lastOpNamesCommand) : s.Inv :=
  ⟨⟨hbd, by simp [he], by simp [he]⟩, ⟨by simp [he, hc], by simp [hc]⟩, hop⟩

/-- The states of the invariant with an error. -/
theorem inv_of_error {s : State} {c : Cause} (hb : s.busy = false) (hd : s.done = false)
    (he : s.err = true) (hc : s.cause = some c) (hallowed : causeAllowed s.lastOp c = true) :
    s.Inv :=
  ⟨⟨by simp [hb], by simp [hb], by simp [hd]⟩, ⟨by simp [he, hc], by simpa [hc] using hallowed⟩,
    by simp [State.lastOpNamesCommand, hb, hd]⟩

theorem inv_acceptCommand {w : Word} {i : Instr} {s : State} (hinv : s.Inv) (he : s.err = false)
    (hw : decode w = .ok i) : (acceptCommand w s).Inv := by
  obtain ⟨-, hop⟩ := decode_eq_ok hw
  have hc : s.cause = none := cause_eq_none_of_no_error hinv he
  exact inv_of_no_error (by simp) he hc
    (by simp [State.lastOpNamesCommand, hop])

theorem inv_rejectCommand (w : Word) (s : State) : (rejectCommand w s).Inv :=
  inv_of_error rfl rfl rfl rfl rfl

theorem inv_clearError {s : State} (hinv : s.Inv) (he : s.err = true) :
    ({ s with err := false, cause := none } : State).Inv := by
  obtain ⟨hb, hd⟩ := flags_of_error hinv he
  exact inv_of_no_error (by simp [hb]) rfl rfl (by simp [State.lastOpNamesCommand, hb, hd])

/-- The completion of the running command, with or without an error. -/
theorem inv_complete {i : Instr} {s : State} (hinv : s.Inv) (hb : s.busy = true)
    (hop : decodeOpcode s.lastOp = some i) : (complete (commandResult i s.lat) s).Inv := by
  obtain ⟨hd, he⟩ := flags_of_busy hinv hb
  have hc : s.cause = none := cause_eq_none_of_no_error hinv he
  cases hr : commandResult i s.lat with
  | ok ws =>
    exact inv_of_no_error (by simp) he hc (by simp [State.lastOpNamesCommand, hop])
  | err c =>
    have hallowed : causeAllowed s.lastOp c = true := by
      rw [opcodeOf_of_decodeOpcode hop]
      exact (causeAllowed_of_commandResult_err hr).1
    exact inv_of_error rfl hd rfl rfl hallowed

theorem inv_hostWrite (i : Nat) (v : Word) {s : State} (hinv : s.Inv) : (hostWrite i v s).Inv := by
  obtain h | ⟨-, -, he, ⟨j, hj⟩, h⟩ | ⟨-, -, -, h⟩ | ⟨he, h⟩ | ⟨-, -, o, h⟩ :=
    hostWrite_effects i v s <;> rw [h]
  · exact hinv
  · exact inv_acceptCommand hinv he hj
  · exact inv_rejectCommand v s
  · exact inv_clearError hinv he
  · exact hinv

theorem inv_engineStep {s t : State} (hinv : s.Inv) (h : engineStep s = .next t) : t.Inv := by
  obtain ⟨-, rfl⟩ | ⟨hb, i, hop, rfl⟩ := engineStep_next h
  · exact hinv
  · exact inv_complete hinv hb hop

theorem inv_resetBlock (s : State) : (resetBlock s).Inv :=
  inv_of_no_error rfl rfl rfl (by simp [State.lastOpNamesCommand])

/-- Settles O8: the reset state is the reset of itself. -/
theorem invariantHoldsAtReset : Obligations.InvariantHoldsAtReset :=
  inv_resetBlock State.reset

/-- Settles O9: each kind of transition keeps the invariant, and the schedule is no part of it. -/
theorem everyStepKeepsTheInvariant : Obligations.EveryStepKeepsTheInvariant := by
  intro s t hinv hstep
  obtain ⟨-, es, h⟩ | ⟨i, rest, -, rfl⟩ | ⟨i, v, rest, -, rfl⟩ | ⟨rest, -, rfl⟩ :=
    step_next_transition hstep
  · exact inv_engineStep (s := { s with events := es }) hinv h
  · exact hinv
  · exact inv_hostWrite i v hinv
  · exact inv_resetBlock _

/-! ## Reset values (R32) and the layout of `STATUS` (R24) -/

/-- Settles O6: each of the nine registers is read in the reset state. -/
theorem resetRegistersReadZero : Obligations.ResetRegistersReadZero := by
  refine ⟨fun i hi => ?_, rfl, rfl, rfl, rfl, rfl⟩
  interval_cases i <;> rfl

/-- A field put at bit `lo` holds its bits from there on. -/
theorem getLsbD_atBit {k : Nat} (v : BitVec k) (lo : Nat) {i : Nat} (hi : i < 32) :
    (atBit v lo).getLsbD i = (decide (lo ≤ i) && v.getLsbD (i - lo)) := by
  have hsub : i - lo < 32 := by omega
  simp only [atBit, BitVec.getLsbD_shiftLeft, BitVec.getLsbD_setWidth, hi, hsub, decide_true,
    Bool.true_and, ← decide_not, Nat.not_lt]

/-- The word of R24, bit by bit. -/
theorem getLsbD_statusWord (s : State) {i : Nat} (hi : i < 32) :
    (statusWord s).getLsbD i =
      (decide (i = 0) && s.busy || decide (i = 1) && s.done || decide (i = 2) && s.err ||
        decide (4 ≤ i) && (causeCode s.cause).getLsbD (i - 4) ||
        decide (8 ≤ i) && s.lastOp.getLsbD (i - 8)) := by
  have hflag (lo : Nat) (b : Bool) :
      (decide (lo ≤ i) && (BitVec.ofBool b).getLsbD (i - lo)) = (decide (i = lo) && b) := by
    rw [BitVec.getLsbD_ofBool, ← Bool.and_assoc, ← Bool.decide_and]
    congr 2
    exact propext (by omega)
  simp only [statusWord, BitVec.getLsbD_or, getLsbD_atBit _ _ hi, hflag]

theorem getLsbD_statusWord_of_four_le (s : State) {i : Nat} (hlo : 4 ≤ i) (hi : i < 32) :
    (statusWord s).getLsbD i =
      ((causeCode s.cause).getLsbD (i - 4) || decide (8 ≤ i) && s.lastOp.getLsbD (i - 8)) := by
  have hflags : i ≠ 0 ∧ i ≠ 1 ∧ i ≠ 2 := by omega
  simp [getLsbD_statusWord s hi, hflags, hlo]

theorem extractLsb'_cause_statusWord (s : State) :
    (statusWord s).extractLsb' 4 4 = causeCode s.cause := by
  apply BitVec.eq_of_getLsbD_eq
  intro j hj
  have hlastOp : ¬ 8 ≤ 4 + j := by omega
  rw [BitVec.getLsbD_extractLsb', getLsbD_statusWord_of_four_le s (by omega) (by omega)]
  simp [hj, hlastOp]

theorem extractLsb'_lastOp_statusWord (s : State) :
    (statusWord s).extractLsb' 8 4 = s.lastOp := by
  apply BitVec.eq_of_getLsbD_eq
  intro j hj
  rw [BitVec.getLsbD_extractLsb', getLsbD_statusWord_of_four_le s (by omega) (by omega)]
  have hcause : 4 ≤ 8 + j - 4 := by omega
  simp [hj, BitVec.getLsbD_of_ge _ _ hcause]

theorem extractLsb'_reserved_statusWord (s : State) :
    (statusWord s).extractLsb' 12 20 = 0 := by
  apply BitVec.eq_of_getLsbD_eq
  intro j hj
  have hcause : 4 ≤ 12 + j - 4 := by omega
  have hlastOp : 4 ≤ 12 + j - 8 := by omega
  rw [BitVec.getLsbD_extractLsb', getLsbD_statusWord_of_four_le s (by omega) (by omega)]
  simp [BitVec.getLsbD_of_ge _ _ hcause, BitVec.getLsbD_of_ge _ _ hlastOp]

/-- The codes of R130. -/
theorem causeCode_le_five (c : Option Cause) : (causeCode c).toNat ≤ 5 := by
  rcases c with _ | c
  · decide
  · cases c <;> decide

/-- A status write reaches `ERR` and `CAUSE` only (R136). -/
theorem hostWrite_status_changes (v : Word) (s : State) :
    ∃ e c, hostWrite 1 v s = { s with err := e, cause := c } := by
  obtain ⟨-, -, h⟩ | ⟨-, h⟩ := writeStatus_cases v s
  · exact ⟨false, none, h⟩
  · exact ⟨s.err, s.cause, h⟩

/-- Of the word written to `STATUS` only bit 2 matters (R47). -/
theorem hostWrite_status_eq_of_bit_two {v w : Word} (h : v.getLsbD 2 = w.getLsbD 2) (s : State) :
    hostWrite 1 v s = hostWrite 1 w s := by
  have hbit : clearsError v = clearsError w := h
  rw [hostWrite, hostWrite, writeStatus, writeStatus, hbit]

/-- Settles O11: the fields are read off the word bit by bit, the effect of a write off
`writeStatus`. -/
theorem statusLayout : Obligations.StatusLayout := by
  intro s
  refine ⟨?_, ?_, ?_, ?_, extractLsb'_cause_statusWord s, extractLsb'_lastOp_statusWord s,
    extractLsb'_reserved_statusWord s, causeCode_le_five s.cause,
    fun v => hostWrite_status_changes v s, fun v w h => hostWrite_status_eq_of_bit_two h s⟩
  all_goals
    rw [getLsbD_statusWord s (by decide)]
    simp

/-! ## The frame of a command -/

/-- A command other than `EEA` writes `RES0` and no other result (`spec/30_encoding.md` R62). -/
theorem commandResult_writes {i : Instr} {l : Operands} {ws : List (ResultReg × Word)}
    (hi : i ≠ .eea) (h : commandResult i l = .ok ws) : ∃ v, ws = [(.res0, v)] := by
  obtain ⟨v, hv⟩ := commandResult_eq_deliverRes0 hi l
  rw [hv] at h
  obtain ⟨x, -, hx⟩ | ⟨c, -, hx⟩ := deliverRes0_cases v <;> rw [hx] at h <;> cases h
  exact ⟨_, rfl⟩

/-- Settles O24: a command is the completion with its outcome, by the two kinds of outcome. -/
theorem commandFrame : Obligations.CommandFrame := by
  intro i s
  refine ⟨_, exec_eq_complete i s, ?_⟩
  cases hr : commandResult i s.lat with
  | ok ws =>
    refine ⟨rfl, rfl, rfl, rfl, rfl, rfl, fun hi => ?_, .inl ⟨rfl, rfl, rfl⟩⟩
    obtain ⟨v, rfl⟩ := commandResult_writes hi hr
    exact ⟨rfl, rfl⟩
  | err c =>
    exact ⟨rfl, rfl, rfl, rfl, rfl, rfl, fun _ => ⟨rfl, rfl⟩,
      .inr ⟨rfl, rfl, rfl, c, (causeAllowed_of_commandResult_err hr).2, rfl⟩⟩

/-! ## Which transition changes which register -/

@[simp] theorem complete_op (out : CommandResult) (s : State) : (complete out s).op = s.op := by
  cases out <;> rfl

@[simp] theorem complete_lat (out : CommandResult) (s : State) : (complete out s).lat = s.lat := by
  cases out <;> rfl

/-- The engine leaves the operand registers and the latches alone (R21, R29). -/
theorem engineStep_op_lat {s t : State} (h : engineStep s = .next t) :
    t.op = s.op ∧ t.lat = s.lat := by
  obtain ⟨-, rfl⟩ | ⟨-, i, -, rfl⟩ := engineStep_next h
  · exact ⟨rfl, rfl⟩
  · simp

/-- Only a completion without error brings the engine to the result registers (R22, R135). -/
theorem engineStep_res {s t : State} (h : engineStep s = .next t) :
    t.res = s.res ∨ (s.busy = true ∧ t.busy = false ∧ t.done = true ∧ t.err = s.err) := by
  obtain ⟨-, rfl⟩ | ⟨hb, i, -, rfl⟩ := engineStep_next h
  · exact .inl rfl
  · cases commandResult i s.lat with
    | ok ws => exact .inr ⟨hb, rfl, rfl, rfl⟩
    | err c => exact .inl rfl

/-- A host write to an index that is no operand register stores no operand (R45). -/
theorem hostWrite_op {i : Nat} {v : Word} {s : State} (h : (hostWrite i v s).op ≠ s.op) :
    2 ≤ i ∧ i ≤ 5 := by
  obtain hw | ⟨-, -, -, -, hw⟩ | ⟨-, -, -, hw⟩ | ⟨-, hw⟩ | ⟨hlo, hhi, -⟩ := hostWrite_effects i v s
  · simp [hw] at h
  · simp [hw] at h
  · simp [hw] at h
  · simp [hw] at h
  · exact ⟨hlo, hhi⟩

/-- A host write that changes a latch is the acceptance of a command (R29, R63). -/
theorem hostWrite_lat {i : Nat} {v : Word} {s : State} (h : (hostWrite i v s).lat ≠ s.lat) :
    i = 0 ∧ s.busy = false ∧ s.err = false ∧ (∃ j, decode v = .ok j) ∧
      hostWrite i v s = acceptCommand v s := by
  obtain hw | haccept | ⟨-, -, -, hw⟩ | ⟨-, hw⟩ | ⟨-, -, o, hw⟩ := hostWrite_effects i v s
  · simp [hw] at h
  · exact haccept
  · simp [hw] at h
  · simp [hw] at h
  · simp [hw] at h

/-- Settles O30: the other kinds of transition leave `OP` alone. -/
theorem onlyTheHostAndResetChangeOperands : Obligations.OnlyTheHostAndResetChangeOperands := by
  intro s t hstep hne
  obtain ⟨-, es, h⟩ | ⟨i, rest, -, rfl⟩ | ⟨i, v, rest, hev, rfl⟩ | ⟨rest, hev, -⟩ :=
    step_next_transition hstep
  · exact absurd (engineStep_op_lat h).1 hne
  · exact absurd rfl hne
  · exact .inl ⟨i, v, rest, hev, hostWrite_op hne⟩
  · exact .inr ⟨rest, hev⟩

/-- Settles O31: host accesses never reach `RES`, and the engine only in a completion without
error. -/
theorem onlyErrorFreeCompletionAndResetChangeResults :
    Obligations.OnlyErrorFreeCompletionAndResetChangeResults := by
  intro s t hinv hstep hne
  obtain ⟨hturn, es, h⟩ | ⟨i, rest, -, rfl⟩ | ⟨i, v, rest, -, rfl⟩ | ⟨rest, hev, -⟩ :=
    step_next_transition hstep
  · obtain hres | ⟨hb, htb, htd, hte⟩ := engineStep_res h
    · exact absurd hres hne
    · exact .inl ⟨hturn, hb, htb, htd, hte.trans (flags_of_busy hinv hb).2⟩
  · exact absurd rfl hne
  · exact absurd (hostWrite_res i v _) hne
  · exact .inr ⟨rest, hev⟩

/-- Settles O32: of the host's writes only an acceptance reaches the latches, and the word accepted
is a command's. -/
theorem onlyAcceptanceAndResetChangeLatches : Obligations.OnlyAcceptanceAndResetChangeLatches := by
  intro s t hstep hne
  obtain ⟨-, es, h⟩ | ⟨i, rest, -, rfl⟩ | ⟨i, v, rest, hev, rfl⟩ | ⟨rest, hev, -⟩ :=
    step_next_transition hstep
  · exact absurd (engineStep_op_lat h).2 hne
  · exact absurd rfl hne
  · obtain ⟨rfl, hb, he, ⟨j, hj⟩, haccept⟩ := hostWrite_lat hne
    rw [haccept]
    exact .inl ⟨j, rest, eq_encode_of_decode hj ▸ hev, hb, he, rfl, rfl⟩
  · exact .inr ⟨rest, hev⟩

/-! ## A running command and the host's accesses (R29, R30) -/

/-- A host access to a block that runs a command without an error reaches at most the operand
registers and the host's record. -/
theorem step_hostAccess_of_running {e : Event} {rest : List Event} {s : State}
    (hb : s.busy = true) (he : s.err = false) (hacc : e.isHostAccess = true) :
    ∃ o rs, step { s with events := e :: rest } =
      .next { s with op := o, events := rest, reads := rs } := by
  rw [step_of_events_cons rfl]
  cases e with
  | read i => exact ⟨s.op, _, rfl⟩
  | write i v =>
    obtain ⟨o, ho⟩ := hostWrite_of_running i v (s := { s with events := rest }) hb he
    exact ⟨o, s.reads, by rw [runEvent, ho]⟩
  | irregular => cases hacc
  | engine => cases hacc
  | reset => cases hacc

/-- Any number of host accesses, by induction on their list; `more` further steps follow. -/
theorem runSteps_hostAccesses_of_running (more : Nat) {es tail : List Event} {s : State}
    (hb : s.busy = true) (he : s.err = false) (hacc : ∀ e ∈ es, e.isHostAccess = true) :
    ∃ o rs, runSteps (es.length + more) { s with events := es ++ tail } =
      runSteps more { s with op := o, events := tail, reads := rs } := by
  induction es generalizing s with
  | nil => exact ⟨s.op, s.reads, by simp⟩
  | cons e es ih =>
    obtain ⟨o, rs, hstep⟩ := step_hostAccess_of_running (rest := es ++ tail) hb he
      (hacc e List.mem_cons_self)
    obtain ⟨o', rs', hrun⟩ := ih (s := { s with op := o, reads := rs }) hb he
      fun e' he' => hacc e' (List.mem_cons_of_mem e he')
    refine ⟨o', rs', ?_⟩
    rw [List.length_cons, Nat.add_right_comm, List.cons_append, runSteps_succ_of_next hstep]
    exact hrun

/-- The engine's turn in a running state of the invariant completes the command in `LASTOP`. -/
theorem engineStep_of_running {s : State} {i : Instr} (hb : s.busy = true)
    (hop : decodeOpcode s.lastOp = some i) :
    engineStep s = .next (complete (commandResult i s.lat) s) := by
  simp [engineStep, hb, hop, exec_eq_complete]

/-- In the invariant a running command is one of the nine. -/
theorem exists_decodeOpcode_of_busy {s : State} (hinv : s.Inv) (hb : s.busy = true) :
    ∃ i, decodeOpcode s.lastOp = some i := by
  obtain ⟨-, -, hop⟩ := hinv
  exact Option.isSome_iff_exists.mp (hop (by simp [hb]))

/-- Settles O35: the host's accesses leave everything a completion reads as it was. -/
theorem interleavingDoesNotChangeTheOutcome : Obligations.InterleavingDoesNotChangeTheOutcome := by
  intro s es rest hinv hb hacc
  obtain ⟨hd, he⟩ := flags_of_busy hinv hb
  obtain ⟨i, hop⟩ := exists_decodeOpcode_of_busy hinv hb
  obtain ⟨o, rs, hrun⟩ := runSteps_hostAccesses_of_running 1 (tail := .engine :: rest) hb he hacc
  have hlater : step { s with op := o, events := .engine :: rest, reads := rs } =
      .next (complete (commandResult i s.lat) { s with op := o, events := rest, reads := rs }) := by
    rw [step_of_events_cons rfl]
    exact engineStep_of_running hb hop
  have hnow : step { s with events := [] } =
      .next (complete (commandResult i s.lat) { s with events := [] }) := by
    rw [step_of_events_nil rfl]
    exact engineStep_of_running hb hop
  refine ⟨_, _, hrun.trans (runSteps_succ_of_next hlater 0), hnow, ?_⟩
  cases commandResult i s.lat <;> exact ⟨rfl, rfl, rfl, rfl⟩

end Sys2Proof.Proofs.BlockState

/-!
PROOFS. The family of `spec/20_memory.md`: what a host access does to the block (R41 to R48), and
that from the states of the invariant only an irregular access stops the machine.
-/

namespace Sys2Proof.Proofs.Memory

open Sys2Proof.Machine Sys2Proof.Proofs.BlockState

/-! ## One scheduled access, one step -/

theorem step_of_read {s : State} {i : Nat} {rest : List Event} (h : s.events = .read i :: rest) :
    step s = .next { s with events := rest, reads := readValue i s :: s.reads } := by
  rw [step_of_events_cons h]
  rfl

theorem step_of_write {s : State} {i : Nat} {v : Word} {rest : List Event}
    (h : s.events = .write i v :: rest) :
    step s = .next (hostWrite i v { s with events := rest }) :=
  step_of_events_cons h

/-- Settles O20: the one event of R42 has no meaning. -/
theorem irregularAccessIsRefused : Obligations.IrregularAccessIsRefused :=
  fun _ _ hev => step_of_events_cons hev

/-! ## Where the machine can stop (R42, R66) -/

/-- In the invariant the engine always has an answer: a busy block runs one of the nine commands. -/
theorem exists_engineStep_next {s : State} (hinv : s.Inv) : ∃ t, engineStep s = .next t := by
  obtain ⟨-, h⟩ | ⟨-, i, -, h⟩ | ⟨hb, hnone, -⟩ := engineStep_cases s
  · exact ⟨_, h⟩
  · exact ⟨_, h⟩
  · obtain ⟨i, hop⟩ := exists_decodeOpcode_of_busy hinv hb
    simp [hnone] at hop

/-- A step from the invariant answers a next state, or refuses an irregular access. -/
theorem step_next_or_irregular {s : State} (hinv : s.Inv) :
    (∃ t, step s = .next t) ∨
    ((∃ rest, s.events = .irregular :: rest) ∧ step s = .refused .irregularAccess) := by
  match hev : s.events with
  | [] =>
    rw [step_of_events_nil hev]
    exact .inl (exists_engineStep_next hinv)
  | .read i :: rest => exact .inl ⟨_, step_of_read hev⟩
  | .write i v :: rest => exact .inl ⟨_, step_of_write hev⟩
  | .irregular :: rest => exact .inr ⟨⟨rest, rfl⟩, irregularAccessIsRefused s rest hev⟩
  | .engine :: rest =>
    rw [step_of_events_cons hev]
    exact .inl (exists_engineStep_next (s := { s with events := rest }) hinv)
  | .reset :: rest => exact .inl ⟨_, step_of_events_cons hev⟩

/-- Settles O10: of the two answers a step can give, neither is a fault and only the second is a
refusal. -/
theorem onlyIrregularAccessesStop : Obligations.OnlyIrregularAccessesStop := by
  intro s hinv
  obtain ⟨t, hstep⟩ | ⟨hev, hstep⟩ := step_next_or_irregular hinv
  · simp [hstep]
  · exact ⟨by simp [hstep], fun _ _ => hev⟩

/-! ## Reads (R43) -/

/-- Settles O12: the value recorded is the answer of `hostRead` at that index. -/
theorem hostReadReturnsTheRegister : Obligations.HostReadReturnsTheRegister := by
  intro s i rest hev _
  refine ⟨_, step_of_read hev, ?_, ?_, ?_, ?_, ?_, ?_, ?_, ?_, ?_⟩ <;>
    (rintro rfl; exact readValue_of_hostRead rfl)

/-! ## Writes to operands, to results and outside the registers (R41, R45, R48) -/

/-- Settles O13: `hostWrite` at each of the four indices. -/
theorem operandWriteStoresTheWord : Obligations.OperandWriteStoresTheWord :=
  fun _ _ _ => ⟨step_of_write, step_of_write, step_of_write, step_of_write⟩

/-- From the first result register on, no index is written. -/
theorem hostWrite_of_six_le {i : Nat} (hi : 6 ≤ i) (v : Word) (s : State) :
    hostWrite i v s = s := by
  obtain ⟨h0, -⟩ | ⟨h1, -⟩ | ⟨-, h5, -⟩ | ⟨-, h⟩ := hostWrite_cases i v s
  · omega
  · omega
  · omega
  · exact h

theorem step_of_write_of_six_le {s : State} {i : Nat} {v : Word} {rest : List Event}
    (h : s.events = .write i v :: rest) (hi : 6 ≤ i) : step s = .next { s with events := rest } := by
  rw [step_of_write h, hostWrite_of_six_le hi]

/-- Settles O14: the result registers are among the indices that are not written. -/
theorem resultWriteIsIgnored : Obligations.ResultWriteIsIgnored :=
  fun _ _ _ _ hev hi _ => step_of_write_of_six_le hev hi

/-- Settles O19: so are the indices outside the registers; a read of one records the platform's
value. -/
theorem accessOutsideTheRegistersChangesNothing :
    Obligations.AccessOutsideTheRegistersChangesNothing :=
  fun _ _ _ hi =>
    ⟨fun _ hev => step_of_write_of_six_le hev (Nat.le_trans (by decide) hi),
      fun hev => ⟨_, step_of_read hev⟩⟩

/-! ## Status writes, and the command after them (R46, R47) -/

theorem step_of_clearing_write {s : State} {v : Word} {rest : List Event}
    (h : s.events = .write 1 v :: rest) (hv : clearsError v = true) (he : s.err = true) :
    step s = .next { s with events := rest, err := false, cause := none } := by
  rw [step_of_write h]
  obtain ⟨-, -, hw⟩ | ⟨hno, -⟩ := writeStatus_cases v { s with events := rest }
  · exact congrArg _ hw
  · simp [hv, he] at hno

theorem step_of_idle_status_write {s : State} {v : Word} {rest : List Event}
    (h : s.events = .write 1 v :: rest) (hno : clearsError v = false ∨ s.err = false) :
    step s = .next { s with events := rest } := by
  rw [step_of_write h]
  obtain ⟨hv, he, -⟩ | ⟨-, hw⟩ := writeStatus_cases v { s with events := rest }
  · simp [hv, show s.err = true from he] at hno
  · exact congrArg _ hw

@[simp] theorem decode_encode (i : Instr) : decode (encode i) = .ok i := by
  cases i <;> rfl

@[simp] theorem opcodeField_encode (i : Instr) : opcodeField (encode i) = opcodeOf i :=
  opcodeOf_of_decodeOpcode (decode_eq_ok (decode_encode i)).2

/-- A block that is neither busy nor in error accepts every command's word (R63). -/
theorem step_of_command_write {s : State} {i : Instr} {rest : List Event}
    (h : s.events = .write 0 (encode i) :: rest) (hb : s.busy = false) (he : s.err = false) :
    step s = .next (acceptCommand (encode i) { s with events := rest }) := by
  rw [step_of_write h]
  simp [hostWrite, writeCommand, hb, he]

/-- Settles O15: the two kinds of status write, the flags of the error state, and the acceptance of
a command by the idle block that clearing leaves. -/
theorem statusWriteClearsTheError : Obligations.StatusWriteClearsTheError := by
  intro s v rest hev
  refine ⟨step_of_clearing_write hev, step_of_idle_status_write hev, flags_of_error, ?_⟩
  rintro hinv hv he i more rfl
  obtain ⟨hb, -⟩ := flags_of_error hinv he
  have hclear := step_of_clearing_write hev hv he
  have haccept := step_of_command_write (rest := more) (i := i)
    (s := { s with events := .write 0 (encode i) :: more, err := false, cause := none }) rfl hb rfl
  refine ⟨_, (runSteps_succ_of_next hclear 1).trans (runSteps_succ_of_next haccept 0), ?_⟩
  simp

end Sys2Proof.Proofs.Memory

/-!
PROOFS. The family of `spec/30_encoding.md`: the decoder and the encoder (R60, R61), the two answers
to a `CMD` write (R63, R64), the engine's turn (R66), and a command from its issue to its completion
(R69), which every accepted command reaches.
-/

namespace Sys2Proof.Proofs.Encoding

open Sys2Proof.Machine Sys2Proof.Proofs.Scope Sys2Proof.Proofs.BlockState Sys2Proof.Proofs.Memory

/-! ## The decoder and the encoder (R60, R61) -/

@[simp] theorem decodeOpcode_opcodeOf (i : Instr) : decodeOpcode (opcodeOf i) = some i := by
  cases i <;> rfl

/-- A 32-bit table row is the word itself. -/
@[simp] theorem tableWord_toNat (w : Word) : tableWord 32 w.toNat = w := by
  rw [tableWord, Nat.mod_eq_of_lt w.isLt, BitVec.ofNat_toNat, BitVec.setWidth_eq]

theorem decodeTableWord_toNat (w : Word) : decodeTableWord 32 w.toNat = (decode w).toOption := by
  simp [decodeTableWord]

/-- Settles O5: the encoder inverts each of the three decoders, and what decodes is an encoding. -/
theorem decodeEncodeAgree : Obligations.DecodeEncodeAgree := by
  refine ⟨fun i _ => ⟨decode_encode i, decodeOpcode_opcodeOf i, ?_⟩,
    fun _ _ => eq_encode_of_decode, fun _ _ => opcodeOf_of_decodeOpcode⟩
  rw [decodeTableWord_toNat, decode_encode]
  rfl

/-! ## The legal words (R61) -/

theorem toNat_opcodeField (w : Word) : (opcodeField w).toNat = w.toNat % 16 := by
  simp [opcodeField, BitVec.extractLsb'_toNat]

theorem toNat_zeroField (w : Word) : (zeroField w).toNat = w.toNat / 16 := by
  have hw := w.isLt
  rw [zeroField, BitVec.extractLsb'_toNat, Nat.shiftRight_eq_div_pow]
  exact Nat.mod_eq_of_lt (by omega)

/-- R61's condition on the two fields is a condition on the value of the word. -/
theorem legal_fields_iff (w : Word) :
    (zeroField w = 0 ∧ 1 ≤ (opcodeField w).toNat ∧ (opcodeField w).toNat ≤ 9) ↔
      (1 ≤ w.toNat ∧ w.toNat ≤ 9) := by
  have hzero : zeroField w = 0 ↔ w.toNat / 16 = 0 := by
    rw [BitVec.toNat_eq, toNat_zeroField]
    rfl
  rw [hzero, toNat_opcodeField]
  omega

theorem toNat_encode (i : Instr) : (encode i).toNat = (opcodeOf i).toNat := by
  cases i <;> rfl

/-- Each command is decoded from its own word only. -/
theorem decode_eq_ok_iff {w : Word} {i : Instr} :
    decode w = .ok i ↔ w.toNat = (opcodeOf i).toNat := by
  rw [← toNat_encode, ← BitVec.toNat_eq]
  exact ⟨eq_encode_of_decode, fun h => h ▸ decode_encode i⟩

theorem opcodeOf_bounds (i : Instr) : 1 ≤ (opcodeOf i).toNat ∧ (opcodeOf i).toNat ≤ 9 := by
  cases i <;> decide

theorem exists_opcodeOf {n : Nat} (hlo : 1 ≤ n) (hhi : n ≤ 9) :
    ∃ i, n = (opcodeOf i).toNat := by
  interval_cases n
  exacts [⟨.msb32, rfl⟩, ⟨.npow2, rfl⟩, ⟨.eea, rfl⟩, ⟨.invm, rfl⟩, ⟨.mn1, rfl⟩, ⟨.mr1, rfl⟩,
    ⟨.mredc, rfl⟩, ⟨.mexp, rfl⟩, ⟨.powm, rfl⟩]

theorem exists_decode_ok_iff (w : Word) :
    (∃ i, decode w = .ok i) ↔ (1 ≤ w.toNat ∧ w.toNat ≤ 9) := by
  simp only [decode_eq_ok_iff]
  constructor
  · rintro ⟨i, hi⟩
    rw [hi]
    exact opcodeOf_bounds i
  · rintro ⟨hlo, hhi⟩
    exact exists_opcodeOf hlo hhi

theorem exists_decode_error_iff (w : Word) :
    (∃ e, decode w = .error e) ↔ ¬ (1 ≤ w.toNat ∧ w.toNat ≤ 9) := by
  rw [← exists_decode_ok_iff]
  cases decode w <;> simp

/-- The check on the word's bits is R61's condition on its fields. -/
theorem wordLegal_iff (w : Word) :
    wordLegal w = true ↔
      zeroField w = 0 ∧ 1 ≤ (opcodeField w).toNat ∧ (opcodeField w).toNat ≤ 9 := by
  have hnonzero : opcodeField w ≠ 0 ↔ 1 ≤ (opcodeField w).toNat := by
    rw [Nat.one_le_iff_ne_zero, ne_eq, BitVec.toNat_eq]
    rfl
  rw [← hnonzero]
  simp [wordLegal, zeroFieldClear, opcodeNonzero, opcodeAtMostNine, zeroField, opcodeField,
    and_assoc]

/-- Settles O4: each clause is a condition on the value of the word. -/
theorem legalWordsAreExactlyNine : Obligations.LegalWordsAreExactlyNine := fun w =>
  ⟨(exists_decode_ok_iff w).trans (legal_fields_iff w).symm, exists_decode_ok_iff w,
    exists_decode_error_iff w,
    (wordLegal_iff w).trans ((legal_fields_iff w).trans (exists_decode_ok_iff w).symm),
    decode_eq_ok_iff, decode_eq_ok_iff, decode_eq_ok_iff, decode_eq_ok_iff, decode_eq_ok_iff,
    decode_eq_ok_iff, decode_eq_ok_iff, decode_eq_ok_iff, decode_eq_ok_iff⟩

/-! ## A `CMD` write to an idle block (R63, R64) -/

/-- Settles O16: a word 1 to 9 is the encoding of a command, and that write is an acceptance. -/
theorem legalWordIsAccepted : Obligations.LegalWordIsAccepted := by
  intro s w rest hev hb he hlo hhi
  obtain ⟨i, hi⟩ := (exists_decode_ok_iff w).mpr ⟨hlo, hhi⟩
  obtain rfl := eq_encode_of_decode hi
  exact step_of_command_write hev hb he

theorem step_of_illegal_write {s : State} {w : Word} {rest : List Event} {e : DecodeError}
    (h : s.events = .write 0 w :: rest) (hb : s.busy = false) (he : s.err = false)
    (hw : decode w = .error e) :
    step s = .next (rejectCommand w { s with events := rest }) := by
  rw [step_of_write h]
  simp [hostWrite, writeCommand, hb, he, hw]

/-- Settles O17: each of the three ways to be illegal leaves the decoder without a command. -/
theorem illegalWordRaises : Obligations.IllegalWordRaises := by
  intro s w rest hev hb he hillegal
  have hnot : ¬ (1 ≤ w.toNat ∧ w.toNat ≤ 9) := by
    rw [← legal_fields_iff]
    rintro ⟨hz, hlo, hhi⟩
    obtain hz' | hop | hop := hillegal
    · exact hz' hz
    · simp [opcodeField, hop] at hlo
    · exact absurd (hop.trans hhi) (by decide)
  obtain ⟨e, hw⟩ := (exists_decode_error_iff w).mpr hnot
  rw [step_of_illegal_write hev hb he hw, rejectCommand, raiseError, hb]
  rfl

/-! ## The engine's turn (R66) -/

theorem engineStep_eq_exec {s : State} {i : Instr} (hb : s.busy = true)
    (hop : s.lastOp = opcodeOf i) : engineStep s = exec i s := by
  rw [exec_eq_complete]
  exact engineStep_of_running hb (by rw [hop, decodeOpcode_opcodeOf])

/-- Settles O21: both kinds of engine's turn are `engineStep`. -/
theorem engineRunsTheDecodedCommand : Obligations.EngineRunsTheDecodedCommand := by
  intro s i hb hop
  refine ⟨fun hev => ?_, fun rest hev => ?_⟩
  · rw [step_of_events_nil hev]
    exact engineStep_eq_exec hb hop
  · rw [step_of_events_cons hev]
    exact engineStep_eq_exec (s := { s with events := rest }) hb hop

/-- A command's word is placed as accepted, with the engine's turn next (log entry 7). -/
theorem withFetchWord_encode (s : State) (i : Instr) :
    s.withFetchWord 32 (encode i).toNat =
      { s with lat := s.op, lastOp := opcodeOf i, busy := true, done := false, err := false,
               cause := none, events := .engine :: s.events } := by
  simp [State.withFetchWord, placeCommand, acceptCommand]

/-- An illegal word is placed as a write to an idle block (log entry 7). -/
theorem withFetchWord_illegal (s : State) {w : Word} {e : DecodeError} (hw : decode w = .error e) :
    s.withFetchWord 32 w.toNat =
      { s with busy := false, err := false, cause := none, events := .write 0 w :: s.events } := by
  simp [State.withFetchWord, placeCommand, hw]

/-- Settles O22: a placed command is at its engine's turn, a placed illegal word at its write. -/
theorem placedWordIsRunNext : Obligations.PlacedWordIsRunNext := by
  refine ⟨fun s i => ?_, fun s w hno => ?_⟩
  · rw [withFetchWord_encode]
    obtain ⟨-, hturn⟩ := engineRunsTheDecodedCommand
      { s with lat := s.op, lastOp := opcodeOf i, busy := true, done := false, err := false,
               cause := none, events := .engine :: s.events } i rfl rfl
    exact hturn s.events rfl
  · cases hw : decode w with
    | ok i => exact absurd hw (hno i)
    | error e =>
      rw [withFetchWord_illegal s hw]
      exact step_of_illegal_write rfl rfl rfl hw

/-! ## From acceptance to completion (R63, R66) -/

/-- What a completion makes of a block that shows neither a completed command nor an error. -/
theorem complete_of_clear_flags {s : State} (out : CommandResult) (hd : s.done = false)
    (he : s.err = false) (hc : s.cause = none) :
    (∀ ws, out = .ok ws → (complete out s).done = true ∧ (complete out s).err = false ∧
      (complete out s).cause = none ∧ (complete out s).res = writeResults s.res ws) ∧
    (∀ c, out = .err c → (complete out s).done = false ∧ (complete out s).err = true ∧
      (complete out s).cause = some c ∧ (complete out s).res = s.res) := by
  constructor
  · rintro ws rfl
    simp [he, hc]
  · rintro c rfl
    simp [hd]

@[simp] theorem complete_busy (out : CommandResult) (s : State) :
    (complete out s).busy = false := by
  cases out <;> rfl

@[simp] theorem complete_lastOp (out : CommandResult) (s : State) :
    (complete out s).lastOp = s.lastOp := by
  cases out <;> rfl

@[simp] theorem complete_events (out : CommandResult) (s : State) :
    (complete out s).events = s.events := by
  cases out <;> rfl

@[simp] theorem complete_reads (out : CommandResult) (s : State) :
    (complete out s).reads = s.reads := by
  cases out <;> rfl

theorem complete_done_or_err (out : CommandResult) (s : State) :
    (complete out s).done = true ∨ (complete out s).err = true := by
  cases out with
  | ok ws => exact .inl rfl
  | err c => exact .inr rfl

/-- The engine's turn of a running command, when the schedule names it. -/
theorem step_of_engine {s : State} {i : Instr} {rest : List Event}
    (h : s.events = .engine :: rest) (hb : s.busy = true) (hop : s.lastOp = opcodeOf i) :
    step s = .next (complete (commandResult i s.lat) { s with events := rest }) := by
  obtain ⟨-, hturn⟩ := engineRunsTheDecodedCommand s i hb hop
  rw [hturn rest h, exec_eq_complete]

/-- Settles O28: the acceptance copies the operands to the latches, and the write to `OP0` does not
reach those. -/
theorem issuedCommandUsesTheOperandsAtIssue : Obligations.IssuedCommandUsesTheOperandsAtIssue := by
  intro s i v rest hinv hb he hev
  have hc : s.cause = none := cause_eq_none_of_no_error hinv he
  have haccept := step_of_command_write hev hb he
  have hwrite := step_of_write (i := 2) (v := v) (rest := .engine :: rest)
    (s := acceptCommand (encode i) { s with events := .write 2 v :: .engine :: rest }) rfl
  have hengine := step_of_engine (i := i) (rest := rest)
    (s := hostWrite 2 v { acceptCommand (encode i)
      { s with events := .write 2 v :: .engine :: rest } with events := .engine :: rest })
    rfl rfl (opcodeField_encode i)
  refine ⟨_, (runSteps_succ_of_next haccept 2).trans ((runSteps_succ_of_next hwrite 1).trans
    (runSteps_succ_of_next hengine 0)), complete_op _ _, complete_lat _ _,
    (complete_lastOp _ _).trans (opcodeField_encode i), complete_busy _ _, complete_events _ _,
    complete_of_clear_flags _ rfl he hc⟩

/-! ## The parts of `call` (R69) -/

theorem runSteps_add_of_next {m : Nat} {s t : State} (h : runSteps m s = .next t) (n : Nat) :
    runSteps (m + n) s = runSteps n t := by
  induction m generalizing s with
  | zero =>
    cases h
    rw [Nat.zero_add]
  | succ m ih =>
    cases hstep : step s with
    | next u =>
      rw [runSteps_succ_of_next hstep] at h
      rw [Nat.add_right_comm, runSteps_succ_of_next hstep, ih h]
    | fault r => simp [runSteps, hstep] at h
    | refused r => simp [runSteps, hstep] at h

theorem operandCount_bounds (i : Instr) : 1 ≤ operandCount i ∧ operandCount i ≤ 4 := by
  cases i <;> decide

/-- The operand writes of a call put its operands into `OP`, as many as the command reads. -/
theorem runSteps_operandLines {s : State} {k : Nat} {l : Operands} {tail : List Event}
    (hlo : 1 ≤ k) (hhi : k ≤ 4) (h : s.events = (operandLines k l).map lineEvent ++ tail) :
    ∃ o, operandsAgree k o l ∧ runSteps k s = .next { s with op := o, events := tail } := by
  obtain ⟨op, lat, res, busy, done, err, cause, lastOp, events, reads⟩ := s
  obtain rfl : events = _ := h
  interval_cases k
  · exact ⟨{ op with op0 := l.op0 }, by simp, rfl⟩
  · exact ⟨{ op with op0 := l.op0, op1 := l.op1 }, by simp, rfl⟩
  · exact ⟨{ op with op0 := l.op0, op1 := l.op1, op2 := l.op2 }, by simp, rfl⟩
  · exact ⟨l, by simp, rfl⟩

/-- Each read of a wait returns the same `STATUS`, since a read changes nothing in the block. -/
theorem runSteps_polls {s : State} {polls : Nat} {tail : List Event}
    (h : s.events = List.replicate polls (.read 1) ++ tail) :
    runSteps polls s = .next
      { s with events := tail, reads := List.replicate polls (statusWord s) ++ s.reads } := by
  induction polls generalizing s with
  | zero =>
    obtain rfl : s.events = tail := h
    rfl
  | succ polls ih =>
    rw [runSteps_succ_of_next (step_of_read h), ih rfl, List.replicate_succ', List.append_assoc]
    rfl

/-- `STATUS` of a running command: `BUSY` and `LASTOP` alone (R24). -/
theorem statusWord_of_running {s : State} {i : Instr} (hb : s.busy = true) (hd : s.done = false)
    (he : s.err = false) (hc : s.cause = none) (hop : s.lastOp = opcodeOf i) :
    statusWord s = BitVec.ofNat 32 (1 + 256 * (opcodeOf i).toNat) := by
  rw [statusWord, hb, hd, he, hc, hop]
  cases i <;> rfl

/-- A wait on a running command: the busy reads, the completion, and the read that ends it. -/
theorem runSteps_waitEvents {s : State} {i : Instr} {polls : Nat} {tail : List Event}
    (hb : s.busy = true) (hop : s.lastOp = opcodeOf i)
    (h : s.events = waitEvents polls ++ tail) :
    runSteps (polls + 2) s = .next (hostReads 1 (complete (commandResult i s.lat)
      { s with events := tail, reads := List.replicate polls (statusWord s) ++ s.reads })) := by
  rw [waitEvents, List.append_assoc] at h
  rw [runSteps_add_of_next (runSteps_polls h)]
  have hengine := step_of_engine (rest := .read 1 :: tail) (i := i)
    (s := { s with events := .engine :: .read 1 :: tail
                   reads := List.replicate polls (statusWord s) ++ s.reads }) rfl hb hop
  refine (runSteps_succ_of_next hengine 1).trans ?_
  rw [runSteps_succ_of_next (step_of_read (complete_events _ _))]
  cases commandResult i s.lat <;> rfl

theorem length_callEvents (i : Instr) (l : Operands) (polls : Nat) :
    (callEvents i l polls).length = operandCount i + (polls + 2 + 1) := by
  have hk : min (operandCount i) 4 = operandCount i := Nat.min_eq_left (operandCount_bounds i).2
  simp [callEvents, operandLines, waitEvents, hk]

/-- Settles O29: the operand writes, the acceptance and the wait, one after the other; the operands
that the call does not write are not read. -/
theorem callRunsTheCommandOnItsOperands : Obligations.CallRunsTheCommandOnItsOperands := by
  intro s i l polls rest hinv hb he hev
  have hc : s.cause = none := cause_eq_none_of_no_error hinv he
  obtain ⟨hlo, hhi⟩ := operandCount_bounds i
  obtain ⟨o, hagree, hwrites⟩ := runSteps_operandLines (s := s) (l := l)
    (tail := .write 0 (encode i) :: (waitEvents polls ++ rest)) hlo hhi
    (by simp [hev, callEvents, lineEvent])
  have haccept := step_of_command_write (rest := waitEvents polls ++ rest) (i := i)
    (s := { s with op := o, events := .write 0 (encode i) :: (waitEvents polls ++ rest) }) rfl hb he
  have hwait := runSteps_waitEvents (i := i) (polls := polls) (tail := rest)
    (s := acceptCommand (encode i) { s with op := o, events := waitEvents polls ++ rest })
    rfl (opcodeField_encode i) rfl
  have hstatus := statusWord_of_running (i := i)
    (s := acceptCommand (encode i) { s with op := o, events := waitEvents polls ++ rest })
    rfl rfl he hc (opcodeField_encode i)
  rw [hstatus, acceptCommand_lat, commandResult_eq_of_operandsAgree hagree] at hwait
  rw [length_callEvents]
  refine ⟨_, (runSteps_add_of_next hwrites _).trans ((runSteps_succ_of_next haccept _).trans hwait),
    complete_events _ _, complete_busy _ _, (complete_lastOp _ _).trans (opcodeField_encode i), ?_,
    complete_of_clear_flags _ rfl he hc⟩
  rw [hostReads_reads, complete_reads]
  rfl

/-! ## Every accepted command completes (R66, R158) -/

/-- An ordinary transition is the engine's turn or a host access. -/
theorem eq_engine_or_isHostAccess {e : Event} (h : e.isOrdinary = true) :
    e = .engine ∨ e.isHostAccess = true := by
  cases e with
  | engine => exact .inl rfl
  | read i => exact .inr rfl
  | write i v => exact .inr rfl
  | irregular => cases h
  | reset => cases h

/-- At the engine's turn a running command completes, in one step. -/
theorem exists_step_completes {s : State} (hinv : s.Inv) (hb : s.busy = true)
    (hturn : s.enginesTurn) :
    ∃ t, step s = .next t ∧ t.busy = false ∧ (t.done = true ∨ t.err = true) := by
  obtain ⟨i, hi⟩ := exists_decodeOpcode_of_busy hinv hb
  obtain ⟨hnil, hcons⟩ := engineRunsTheDecodedCommand s i hb (opcodeOf_of_decodeOpcode hi)
  obtain hev | ⟨rest, hev⟩ := hturn
  · exact ⟨_, (hnil hev).trans (exec_eq_complete i _), complete_busy _ _, complete_done_or_err _ _⟩
  · exact ⟨_, (hcons rest hev).trans (exec_eq_complete i _), complete_busy _ _,
      complete_done_or_err _ _⟩

/-- Settles O36, by induction on the schedule: a host access leaves the command running, and the
engine's turn comes at the latest when nothing is scheduled. -/
theorem everyAcceptedCommandCompletes : Obligations.EveryAcceptedCommandCompletes := by
  intro s hinv hb hord
  induction hev : s.events generalizing s with
  | nil =>
    obtain ⟨t, hstep, hend⟩ := exists_step_completes hinv hb (.inl hev)
    exact ⟨1, t, Nat.le_refl 1, runSteps_succ_of_next hstep 0, hend⟩
  | cons e rest ih =>
    rw [hev] at hord
    obtain rfl | hacc := eq_engine_or_isHostAccess (hord e List.mem_cons_self)
    · obtain ⟨t, hstep, hend⟩ := exists_step_completes hinv hb (.inr ⟨rest, hev⟩)
      exact ⟨1, t, Nat.le_add_left 1 _, runSteps_succ_of_next hstep 0, hend⟩
    · obtain ⟨-, he⟩ := flags_of_busy hinv hb
      obtain ⟨o, rs, hstep⟩ := step_hostAccess_of_running (rest := rest) hb he hacc
      rw [← hev] at hstep
      obtain ⟨k, t, hk, hrun, hend⟩ := ih { s with op := o, events := rest, reads := rs } hinv hb
        (fun e' he' => hord e' (List.mem_cons_of_mem e he')) rfl
      exact ⟨k + 1, t, Nat.succ_le_succ hk, (runSteps_succ_of_next hstep k).trans hrun, hend⟩

end Sys2Proof.Proofs.Encoding

/-!
PROOFS. The family of `spec/40_bit_utilities.md`: the index of the top bit (R80, R81), the next power
of two by bit smearing (R82, R83), and how the two fit together (R84).
-/

namespace Sys2Proof.Proofs.BitUtilities

open Sys2Proof.Machine Sys2Proof.Proofs.Scope

/-! ## Commands with their one result in `RES0` (R62, R66) -/

theorem exec_of_delivers {i : Instr} {s : State} {v : Int}
    (h : commandResult i s.lat = deliverRes0 (.ok v)) :
    exec i s = .next { s with
      res := { s.res with res0 := wrap32 v }, busy := false, done := true } := by
  rw [exec_eq_complete, h]
  rfl

theorem exec_of_raises {i : Instr} {s : State} {c : Cause} (h : commandResult i s.lat = .err c) :
    exec i s = .next { s with busy := false, err := true, cause := some c } := by
  rw [exec_eq_complete, h]
  rfl

@[simp] theorem wrap32_natCast (n : Nat) : wrap32 (n : Int) = BitVec.ofNat 32 n := by
  rw [wrap32_eq_ofInt, BitVec.ofInt_natCast]

/-! ## The index of the top bit (R80, R81) -/

@[simp] theorem msb32_zero : msb32 0 = none := rfl

theorem msb32_of_ne_zero {n : Nat} (h : n ≠ 0) : msb32 n = some n.log2 := if_neg h

theorem msb32Result_of_eq_none {l : Operands} (h : msb32 (u32 l.op0) = none) :
    msb32Result l = .err .bitScanOfZero := by
  rw [msb32Result, h]

theorem msb32Result_of_eq_some {l : Operands} {k : Nat} (h : msb32 (u32 l.op0) = some k) :
    msb32Result l = deliverRes0 (.ok k) := by
  rw [msb32Result, h]

/-- Settles O38: `msb32` answers `none` for 0 and the binary logarithm otherwise. -/
theorem msb32DeliversTheTopBit : Obligations.Msb32DeliversTheTopBit := by
  refine fun s => ⟨fun h0 => ?_, fun h0 => ?_⟩
  · have hn : msb32 (u32 s.lat.op0) = none := by simp [h0, u32]
    exact exec_of_raises (msb32Result_of_eq_none hn)
  · have hn : u32 s.lat.op0 ≠ 0 := fun h => h0 (BitVec.eq_of_toNat_eq h)
    have htop : (u32 s.lat.op0).log2 < 32 := (Nat.log2_lt hn).mpr (u32_lt _)
    refine ⟨_, Nat.le_of_lt_succ htop, Nat.log2_self_le hn, Nat.lt_log2_self, ?_⟩
    rw [← wrap32_natCast]
    exact exec_of_delivers (msb32Result_of_eq_some (msb32_of_ne_zero hn))

/-! ## Bit smearing (R82) -/

/-- `s` is `n` smeared over `w` places: its one-bits are those of `n` and the `w - 1` places below
each. -/
def SmearedOver (w n s : Nat) : Prop :=
  ∀ i, s.testBit i = true ↔ ∃ d < w, n.testBit (d + i) = true

theorem smearedOver_one (n : Nat) : SmearedOver 1 n n := by
  simp [SmearedOver]

/-- One line of R82: OR-ing the copy shifted by `w` doubles the smeared width. -/
theorem SmearedOver.or_shiftRight {w n s : Nat} (h : SmearedOver w n s) :
    SmearedOver (w + w) n (s ||| s >>> w) := by
  intro i
  rw [Nat.testBit_or, Nat.testBit_shiftRight, Bool.or_eq_true, h i, h (w + i)]
  constructor
  · rintro (⟨d, hd, hbit⟩ | ⟨d, hd, hbit⟩)
    · exact ⟨d, by omega, hbit⟩
    · exact ⟨d + w, by omega, by rwa [Nat.add_assoc]⟩
  · rintro ⟨d, hd, hbit⟩
    obtain hlt | hle := Nat.lt_or_ge d w
    · exact .inl ⟨d, hlt, hbit⟩
    · exact .inr ⟨d - w, by omega, by rwa [← Nat.add_assoc, Nat.sub_add_cancel hle]⟩

/-- Smeared over at least its own width, a number has exactly the bits up to its top bit. -/
theorem SmearedOver.eq_two_pow_size_sub_one {w n s : Nat} (h : SmearedOver w n s)
    (hn : n < 2 ^ w) : s = 2 ^ n.size - 1 := by
  refine Nat.eq_of_testBit_eq fun i => Bool.eq_iff_iff.mpr ?_
  rw [h i, Nat.testBit_two_pow_sub_one, decide_eq_true_iff, Nat.lt_size]
  constructor
  · rintro ⟨d, -, hbit⟩
    calc 2 ^ i ≤ 2 ^ (d + i) := Nat.pow_le_pow_right (by decide) (Nat.le_add_left i d)
      _ ≤ n := Nat.ge_two_pow_of_testBit hbit
  · intro hi
    obtain ⟨j, hij, hbit⟩ := Nat.exists_ge_and_testBit_of_ge_two_pow hi
    have hjw : j < w :=
      (Nat.pow_lt_pow_iff_right (by decide)).mp ((Nat.ge_two_pow_of_testBit hbit).trans_lt hn)
    exact ⟨j - i, by omega, by rwa [Nat.sub_add_cancel hij]⟩

/-- The five lines of R82 smear over 32 places. -/
theorem exists_smearedOver_nextPow2 (n : Nat) :
    ∃ s, SmearedOver 32 n s ∧ nextPow2 n = (s + 1) % 2 ^ 32 :=
  ⟨_, (smearedOver_one n).or_shiftRight.or_shiftRight.or_shiftRight.or_shiftRight.or_shiftRight, rfl⟩

/-- The closed form of R82, the wrap included: `Nat.size n` is the number of bits of `n`. -/
theorem nextPow2_eq_two_pow_size_mod {n : Nat} (hn : n < 2 ^ 32) :
    nextPow2 n = 2 ^ n.size % 2 ^ 32 := by
  obtain ⟨s, hs, hnext⟩ := exists_smearedOver_nextPow2 n
  rw [hnext, hs.eq_two_pow_size_sub_one hn, Nat.sub_add_cancel Nat.one_le_two_pow]

theorem nextPow2_of_lt {n : Nat} (hn : n < 2 ^ 31) : nextPow2 n = 2 ^ n.size := by
  have hlt : 2 ^ n.size < 2 ^ 32 :=
    Nat.pow_lt_pow_right (by decide) (Nat.lt_succ_of_le (Nat.size_le.mpr hn))
  rw [nextPow2_eq_two_pow_size_mod (by omega), Nat.mod_eq_of_lt hlt]

theorem nextPow2_of_ge {n : Nat} (hlo : 2 ^ 31 ≤ n) (hhi : n < 2 ^ 32) : nextPow2 n = 0 := by
  have hsize : n.size = 32 := le_antisymm (Nat.size_le.mpr hhi) (Nat.lt_size.mpr hlo)
  rw [nextPow2_eq_two_pow_size_mod hhi, hsize, Nat.mod_self]

/-- Settles O39: below `2^31` the least `j` with `n < 2^j` is the number of bits of `n`. -/
theorem npow2DeliversTheNextPowerOfTwo : Obligations.Npow2DeliversTheNextPowerOfTwo := by
  refine fun s => ⟨nextPow2 s.lat.op0.toNat, fun hlt => ?_, fun hge => ?_, ?_⟩
  · rw [nextPow2_of_lt hlt]
    exact ⟨⟨_, rfl⟩, Nat.lt_size_self _,
      fun j hj => Nat.pow_le_pow_right (by decide) (Nat.size_le.mpr hj)⟩
  · exact nextPow2_of_ge hge (u32_lt _)
  · rw [← wrap32_natCast]
    exact exec_of_delivers rfl

/-! ## The two together (R84) -/

theorem size_eq_log2_add_one {n : Nat} (hn : n ≠ 0) : n.size = n.log2 + 1 :=
  le_antisymm (Nat.size_le.mpr Nat.lt_log2_self) (Nat.lt_size.mpr (Nat.log2_self_le hn))

/-- Settles O40: both are read off the number of bits of `n`. -/
theorem nextPow2IsTheRadixOfMsb32 : Obligations.NextPow2IsTheRadixOfMsb32 := by
  refine fun n => ⟨fun hpos hlt => ?_, fun hlo hhi => ⟨?_, nextPow2_of_ge hlo hhi⟩⟩
  · have hn : n ≠ 0 := Nat.pos_iff_ne_zero.mp hpos
    have hnext : nextPow2 n = 2 ^ (n.log2 + 1) := by
      rw [nextPow2_of_lt hlt, size_eq_log2_add_one hn]
    refine ⟨n.log2, msb32_of_ne_zero hn, hnext, ?_, ?_⟩
    · rw [hnext]
      exact Nat.lt_log2_self
    · rw [hnext, Nat.pow_succ']
      exact Nat.mul_le_mul_left 2 (Nat.log2_self_le hn)
  · have hn : n ≠ 0 := by omega
    rw [msb32_of_ne_zero hn, (Nat.log2_eq_iff hn).mpr ⟨hlo, hhi⟩]

end Sys2Proof.Proofs.BitUtilities

/-!
PROOFS. The family of `spec/41_euclid_inverse.md`: the solver's recursion and its laws (R91, R92),
the modular inverse (R94, R95), and the commands `EEA` (R93) and `INVM` (R96).
-/

namespace Sys2Proof.Proofs.Euclid

open Sys2Proof.Machine Sys2Proof.Proofs.Scope Sys2Proof.Proofs.BitUtilities

/-! ## The recursion of the solver (R91) -/

@[simp] theorem eeaFuel_zero_right (fuel : Nat) (a : Int) :
    eeaFuel fuel a 0 = { d := a, x := 1, y := 0 } := by
  cases fuel with
  | zero => rfl
  | succ fuel => simp [eeaFuel]

theorem eeaFuel_succ_of_ne_zero (fuel : Nat) (a : Int) {b : Int} (hb : b ≠ 0) :
    eeaFuel (fuel + 1) a b =
      { d := (eeaFuel fuel b (trem a b)).d
        x := (eeaFuel fuel b (trem a b)).y
        y := (eeaFuel fuel b (trem a b)).x - tdiv a b * (eeaFuel fuel b (trem a b)).y } := by
  simp [eeaFuel, hb]

/-- Two bounds that cover `|b|` give one answer: neither is felt (R92 (a)). -/
theorem eeaFuel_eq_of_le {f g : Nat} {a b : Int} (hf : b.natAbs ≤ f) (hg : b.natAbs ≤ g) :
    eeaFuel f a b = eeaFuel g a b := by
  induction f generalizing g a b with
  | zero =>
    obtain rfl : b = 0 := by omega
    simp
  | succ f ih =>
    by_cases hb : b = 0
    · simp [hb]
    · have hlt := natAbs_trem_lt a hb
      obtain ⟨g, rfl⟩ := Nat.exists_eq_add_one_of_ne_zero (n := g) (by omega)
      rw [eeaFuel_succ_of_ne_zero f a hb, eeaFuel_succ_of_ne_zero g a hb,
        ih (g := g) (by omega) (by omega)]

@[simp] theorem eea_zero_right (a : Int) : eea a 0 = { d := a, x := 1, y := 0 } := rfl

theorem eea_of_ne_zero (a : Int) {b : Int} (hb : b ≠ 0) :
    eea a b =
      { d := (eea b (trem a b)).d
        x := (eea b (trem a b)).y
        y := (eea b (trem a b)).x - tdiv a b * (eea b (trem a b)).y } := by
  have hfuel : eeaFuel b.natAbs b (trem a b) = eea b (trem a b) :=
    eeaFuel_eq_of_le (natAbs_trem_lt a hb).le le_rfl
  rw [← hfuel, ← eeaFuel_succ_of_ne_zero _ a hb]
  exact eeaFuel_eq_of_le le_rfl (Nat.le_succ _)

/-- Induction along the solver's chain, which ends because `|b|` shrinks (R92 (a)). -/
theorem solver_induction {P : Int → Int → Prop} (base : ∀ a, P a 0)
    (step : ∀ a b, b ≠ 0 → P b (trem a b) → P a b) (a b : Int) : P a b := by
  induction hn : b.natAbs using Nat.strong_induction_on generalizing a b with
  | _ n ih =>
    by_cases hb : b = 0
    · exact hb ▸ base a
    · exact step a b hb (ih _ (hn ▸ natAbs_trem_lt a hb) _ _ rfl)

/-- Settles O41: the depth bound of the model is never felt. -/
theorem solverFollowsTheDerivation : Obligations.SolverFollowsTheDerivation :=
  fun a _ => ⟨fun hb => hb ▸ eea_zero_right a, eea_of_ne_zero a⟩

/-! ## The Bézout identity and the value of `d` (R92 (b), (c), (d)) -/

theorem eea_bezout (a b : Int) : a * (eea a b).x + b * (eea a b).y = (eea a b).d := by
  induction a, b using solver_induction with
  | base a => simp
  | step a b hb ih =>
    rw [eea_of_ne_zero a hb]
    simp only
    rw [← ih, trem]
    ring

theorem natAbs_trem (a b : Int) : (trem a b).natAbs = a.natAbs % b.natAbs := by
  rw [trem_eq_tmod, Int.natAbs_tmod]

theorem natAbs_eea_d (a b : Int) : (eea a b).d.natAbs = Nat.gcd a.natAbs b.natAbs := by
  induction a, b using solver_induction with
  | base a => simp
  | step a b hb ih =>
    rw [eea_of_ne_zero a hb]
    simp only
    rw [ih, natAbs_trem, Nat.gcd_comm, ← Nat.gcd_rec, Nat.gcd_comm]

theorem eea_d_ne_zero (a : Int) {b : Int} (hb : b ≠ 0) : (eea a b).d ≠ 0 := by
  rw [← Int.natAbs_ne_zero, natAbs_eea_d]
  exact Nat.gcd_ne_zero_right (Int.natAbs_ne_zero.mpr hb)

theorem eea_d_nonneg {a b : Int} (ha : 0 ≤ a) (hb : 0 ≤ b) : 0 ≤ (eea a b).d := by
  induction a, b using solver_induction with
  | base a => exact ha
  | step a b hb0 ih =>
    rw [eea_of_ne_zero a hb0]
    exact ih hb (trem_eq_tmod a b ▸ Int.tmod_nonneg b ha)

/-- Settles O42: each law by induction along the chain. -/
theorem solverSatisfiesBezout : Obligations.SolverSatisfiesBezout :=
  ⟨fun a b => ⟨eea_bezout a b, natAbs_eea_d a b, eea_d_nonneg⟩, rfl⟩

/-! ## The range of the triple (R92 (e)) -/

/-- `d` is the last non-zero term of the chain, so it lies in any interval `[-n, n)` that holds the
operands. -/
theorem eea_d_mem {n a b : Int} (ha : -n ≤ a ∧ a < n) (hb : -n ≤ b ∧ b < n) :
    -n ≤ (eea a b).d ∧ (eea a b).d < n := by
  induction a, b using solver_induction with
  | base a => exact ha
  | step a b hb0 ih =>
    rw [eea_of_ne_zero a hb0]
    have hlt := natAbs_trem_lt a hb0
    exact ih hb (by omega)

theorem eea_of_dvd {a b : Int} (hb : b ≠ 0) (h : b ∣ a) : eea a b = { d := b, x := 0, y := 1 } := by
  have hr : trem a b = 0 := trem_eq_tmod a b ▸ Int.tmod_eq_zero_of_dvd h
  rw [eea_of_ne_zero a hb, hr]
  simp

theorem natAbs_tdiv_mul_add_trem (a b : Int) :
    (tdiv a b).natAbs * b.natAbs + (trem a b).natAbs = a.natAbs := by
  rw [natAbs_trem, tdiv_eq_tdiv, Int.natAbs_tdiv]
  exact Nat.div_add_mod' _ _

theorem two_mul_le_of_dvd_of_lt {m n : Nat} (hdvd : m ∣ n) (hlt : m < n) : 2 * m ≤ n := by
  have hle : m ≤ n - m := Nat.le_of_dvd (Nat.sub_pos_of_lt hlt) (Nat.dvd_sub hdvd dvd_rfl)
  omega

/-- The classical bound on the coefficients, with the factor `d` that makes it inductive: at the
chain's last division the remainder is a proper divisor, so at most half. -/
theorem two_mul_coefficient_le {a b : Int} (hb : b ≠ 0) (hdvd : ¬ b ∣ a) :
    2 * (eea a b).d.natAbs * (eea a b).x.natAbs ≤ b.natAbs ∧
      2 * (eea a b).d.natAbs * (eea a b).y.natAbs ≤ a.natAbs := by
  induction a, b using solver_induction with
  | base a => exact absurd rfl hb
  | step a b _ ih =>
    have hr : trem a b ≠ 0 := fun h => hdvd (Int.dvd_of_tmod_eq_zero (trem_eq_tmod a b ▸ h))
    rw [eea_of_ne_zero a hb, ← natAbs_tdiv_mul_add_trem a b]
    by_cases hrb : trem a b ∣ b
    · have hhalf : 2 * (trem a b).natAbs ≤ b.natAbs :=
        two_mul_le_of_dvd_of_lt (Int.natAbs_dvd_natAbs.mpr hrb) (natAbs_trem_lt a hb)
      rw [eea_of_dvd hr hrb]
      simp only [Int.natAbs_one, mul_one, zero_sub, Int.natAbs_neg]
      refine ⟨hhalf, ?_⟩
      calc 2 * (trem a b).natAbs * (tdiv a b).natAbs
          ≤ b.natAbs * (tdiv a b).natAbs := Nat.mul_le_mul_right _ hhalf
        _ = (tdiv a b).natAbs * b.natAbs := Nat.mul_comm _ _
        _ ≤ _ := Nat.le_add_right _ _
    · obtain ⟨hx, hy⟩ := ih hr hrb
      refine ⟨hy, ?_⟩
      generalize eea b (trem a b) = r at hx hy ⊢
      calc 2 * r.d.natAbs * (r.x - tdiv a b * r.y).natAbs
          ≤ 2 * r.d.natAbs * (r.x.natAbs + (tdiv a b).natAbs * r.y.natAbs) :=
            Nat.mul_le_mul_left _ (Int.natAbs_mul _ _ ▸ Int.natAbs_sub_le _ _)
        _ = (tdiv a b).natAbs * (2 * r.d.natAbs * r.y.natAbs) + 2 * r.d.natAbs * r.x.natAbs := by
            ring
        _ ≤ (tdiv a b).natAbs * b.natAbs + (trem a b).natAbs :=
            Nat.add_le_add (Nat.mul_le_mul_left _ hy) hx

theorem two_mul_le_of_two_mul_mul_le {d k n : Nat} (hd : d ≠ 0) (h : 2 * d * k ≤ n) :
    2 * k ≤ n :=
  (Nat.mul_le_mul_right k (Nat.le_mul_of_pos_right 2 (Nat.pos_of_ne_zero hd))).trans h

theorem natAbs_eea_x_lt (a : Int) {b : Int} (hb : b ≠ 0) : (eea a b).x.natAbs < b.natAbs := by
  by_cases hdvd : b ∣ a
  · rw [eea_of_dvd hb hdvd]
    exact Int.natAbs_pos.mpr hb
  · have hx := two_mul_le_of_two_mul_mul_le (Int.natAbs_ne_zero.mpr (eea_d_ne_zero a hb))
      (two_mul_coefficient_le hb hdvd).1
    omega

theorem natAbs_eea_y_le (a b : Int) : (eea a b).y.natAbs ≤ max 1 (a.natAbs / 2) := by
  by_cases hb : b = 0
  · simp [hb]
  by_cases hdvd : b ∣ a
  · simp [eea_of_dvd hb hdvd]
  · have hy := two_mul_le_of_two_mul_mul_le (Int.natAbs_ne_zero.mpr (eea_d_ne_zero a hb))
      (two_mul_coefficient_le hb hdvd).2
    omega

/-- Settles O43: `d` is a term of the chain, `|x| < |b|` unless `b = 0`, and `|y|` is at most half
of `|a|` or 1. -/
theorem solverResultsFitTheRegisters : Obligations.SolverResultsFitTheRegisters := by
  intro a b halo hahi hblo hbhi
  refine ⟨eea_d_mem ⟨halo, hahi⟩ ⟨hblo, hbhi⟩, ?_, ?_⟩
  · by_cases hb : b = 0
    · simp [hb]
    · have hx := natAbs_eea_x_lt a hb
      omega
  · have hy := natAbs_eea_y_le a b
    omega

/-! ## The command `EEA` (R93) -/

theorem exec_eea (s : State) :
    exec .eea s = .next { s with
      res := { res0 := wrap32 (eea (s32 s.lat.op0) (s32 s.lat.op1)).d
               res1 := wrap32 (eea (s32 s.lat.op0) (s32 s.lat.op1)).x
               res2 := wrap32 (eea (s32 s.lat.op0) (s32 s.lat.op1)).y }
      busy := false
      done := true } :=
  exec_eq_complete .eea s

/-- The first division of the chain only swaps the operands. -/
theorem eea_of_natAbs_lt {a b : Int} (h : a.natAbs < b.natAbs) :
    eea a b = { d := (eea b a).d, x := (eea b a).y, y := (eea b a).x } := by
  have hb : b ≠ 0 := Int.natAbs_pos.mp (Nat.zero_lt_of_lt h)
  have hq : tdiv a b = 0 := by simp [tdiv, Nat.div_eq_of_lt h]
  have hr : trem a b = a := by simp [trem, hq]
  rw [eea_of_ne_zero a hb, hq, hr]
  simp

/-- Settles O44: the triple of 32-bit operands is in the range where `wrap32` loses nothing. -/
theorem eeaDeliversTheTriple : Obligations.EeaDeliversTheTriple := by
  refine ⟨fun s => ⟨_, exec_eea s, ?_⟩, eea_zero_right, fun _ _ => eea_of_dvd,
    fun _ _ => eea_of_natAbs_lt⟩
  obtain ⟨halo, hahi⟩ := s32_bounds s.lat.op0
  obtain ⟨hblo, hbhi⟩ := s32_bounds s.lat.op1
  obtain ⟨hd, hx, hy⟩ := solverResultsFitTheRegisters _ _ halo hahi hblo hbhi
  exact ⟨s32_wrap32_of_mem hd.1 hd.2, s32_wrap32_of_mem hx.1 hx.2, s32_wrap32_of_mem hy.1 hy.2⟩

/-! ## The modular inverse (R94, R95) -/

theorem inverseM_of_nonpos (a : Int) {m : Int} (hm : m ≤ 0) :
    inverseM a m = .error .modulusNonPositive :=
  if_pos hm

theorem inverseM_of_d_ne_one {a m : Int} (hm : 0 < m) (hd : (eea a m).d ≠ 1) :
    inverseM a m = .error .noModularInverseExists := by
  simp [inverseM, hm, hd]

/-- Adding the modulus once is the reduction modulo `m`, since `|x| < m`. -/
theorem inverseM_of_d_eq_one {a m : Int} (hm : 0 < m) (hd : (eea a m).d = 1) :
    inverseM a m = .ok ((eea a m).x % m) := by
  have hlt := natAbs_eea_x_lt a hm.ne'
  by_cases hx : (eea a m).x < 0
  · have hmod : (eea a m).x % m = (eea a m).x + m := by
      rw [← Int.add_emod_right, Int.emod_eq_of_lt (by omega) (by omega)]
    simp [inverseM, hm, hd, hx, hmod]
  · have hmod : (eea a m).x % m = (eea a m).x := Int.emod_eq_of_lt (by omega) (by omega)
    simp [inverseM, hm, hd, hx, hmod]

theorem inverseM_eq_ok_iff {a m inv : Int} :
    inverseM a m = .ok inv ↔ 0 < m ∧ (eea a m).d = 1 ∧ (eea a m).x % m = inv := by
  obtain hm | hm := lt_or_ge 0 m
  · by_cases hd : (eea a m).d = 1
    · simp [inverseM_of_d_eq_one hm hd, hm, hd]
    · simp [inverseM_of_d_ne_one hm hd, hd]
  · simp [inverseM_of_nonpos a hm, hm.not_gt]

/-- The Bézout identity modulo `m`. -/
theorem dvd_mul_eea_x_emod_sub_d (a m : Int) : m ∣ a * ((eea a m).x % m) - (eea a m).d := by
  rw [← eea_bezout a m, Int.emod_def]
  exact ⟨-(a * ((eea a m).x / m) + (eea a m).y), by ring⟩

theorem inverseM_ok_residue {a m inv : Int} (h : inverseM a m = .ok inv) :
    1 ≤ m ∧ 0 ≤ inv ∧ inv < m ∧ m ∣ a * inv - 1 := by
  obtain ⟨hm, hd, rfl⟩ := inverseM_eq_ok_iff.mp h
  exact ⟨hm, Int.emod_nonneg _ hm.ne', Int.emod_lt_of_pos _ hm, hd ▸ dvd_mul_eea_x_emod_sub_d a m⟩

theorem eea_d_eq_gcd {a b : Int} (ha : 0 ≤ a) (hb : 0 ≤ b) : (eea a b).d = Int.gcd a b := by
  rw [Int.gcd_def, ← natAbs_eea_d, Int.natAbs_of_nonneg (eea_d_nonneg ha hb)]

/-- Settles O45: the answer is `x` reduced modulo `m`, and for `a ≥ 0` the solver's `d` is the
gcd. -/
theorem inverseIsTheResidue : Obligations.InverseIsTheResidue := by
  refine ⟨fun _ _ _ => inverseM_ok_residue, fun a m ha hm hgcd => ?_⟩
  have hd : (eea a m).d = 1 := by rw [eea_d_eq_gcd ha (by omega), hgcd, Nat.cast_one]
  exact ⟨_, inverseM_of_d_eq_one hm hd⟩

/-! ## The command `INVM` (R96) -/

theorem commandResult_invm_of_inverseM {l : Operands} {v : Except Cause Int}
    (h : inverseM (s32 l.op0) (s32 l.op1) = v) : commandResult .invm l = deliverRes0 v :=
  congrArg deliverRes0 h

/-- Settles O46: the outcomes of `inverse_m` in their order; the residue lies below `m < 2^31`, so
`wrap32` keeps it. -/
theorem invmDeliversTheInverse : Obligations.InvmDeliversTheInverse := by
  refine fun s => ⟨fun hm => ?_, fun hm hd => ?_, fun hm hd => ?_⟩
  · exact exec_of_raises (commandResult_invm_of_inverseM (inverseM_of_nonpos _ hm))
  · exact exec_of_raises (commandResult_invm_of_inverseM (inverseM_of_d_ne_one hm hd))
  · have hok := inverseM_of_d_eq_one hm hd
    obtain ⟨-, hlo, hhi, hinv⟩ := inverseM_ok_residue hok
    have hread := s32_wrap32_of_mem (by omega) (hhi.trans (s32_bounds s.lat.op1).2)
    refine ⟨wrap32 _, ?_, ?_, ?_, exec_of_delivers (commandResult_invm_of_inverseM hok)⟩ <;>
      rwa [hread]

end Sys2Proof.Proofs.Euclid

/-!
PROOFS. The family of `spec/42_montgomery_params.md`: the radix (R100), the two Montgomery
parameters (R101, R103) with the relation between them (R105), and the commands `MN1` (R102) and
`MR1` (R104).
-/

namespace Sys2Proof.Proofs.MontgomeryParams

open Sys2Proof.Machine Sys2Proof.Proofs.BitUtilities Sys2Proof.Proofs.Euclid

/-! ## The inverse of naturals (R94) -/

/-- For naturals the solver's `d` is their gcd. -/
theorem eea_natCast_d_eq_one_iff {a m : Nat} : (eea a m).d = 1 ↔ a.Coprime m := by
  rw [eea_d_eq_gcd (Int.natCast_nonneg a) (Int.natCast_nonneg m), Int.gcd_natCast_natCast,
    Nat.cast_eq_one, Nat.Coprime]

theorem inverseM_of_not_coprime {a m : Nat} (hm : 0 < m) (h : ¬ a.Coprime m) :
    inverseM a m = .error .noModularInverseExists :=
  inverseM_of_d_ne_one (by exact_mod_cast hm) (mt eea_natCast_d_eq_one_iff.mp h)

theorem inverseM_of_coprime {a m : Nat} (hm : 0 < m) (h : a.Coprime m) :
    ∃ inv : Nat, inverseM a m = .ok inv ∧ inv < m ∧ a * inv ≡ 1 [MOD m] := by
  have hok := inverseM_of_d_eq_one (by exact_mod_cast hm) (eea_natCast_d_eq_one_iff.mpr h)
  obtain ⟨-, hlo, hhi, hdvd⟩ := inverseM_ok_residue hok
  obtain ⟨inv, hinv⟩ := Int.eq_ofNat_of_zero_le hlo
  rw [hinv] at hok hhi hdvd
  exact ⟨inv, hok, by exact_mod_cast hhi, (Nat.modEq_iff_dvd.mpr (by exact_mod_cast hdvd)).symm⟩

/-! ## The radix (R100) -/

theorem radix_of_out_of_range {n : Nat} (h : n = 0 ∨ 2 ^ 31 ≤ n) :
    radix n = .error .modulusNonPositive :=
  if_pos h

theorem radix_of_in_range {n : Nat} (hpos : n ≠ 0) (hlt : n < 2 ^ 31) :
    radix n = .ok (2 ^ (n.log2 + 1)) := by
  rw [← size_eq_log2_add_one hpos, ← nextPow2_of_lt hlt]
  exact if_neg (by omega)

/-- A modulus is coprime to its radix exactly when it is odd. -/
theorem coprime_two_pow_succ_iff {n k : Nat} : n.Coprime (2 ^ (k + 1)) ↔ n % 2 = 1 := by
  rw [Nat.coprime_pow_right_iff k.succ_pos, Nat.coprime_two_right, Nat.odd_iff]

/-! ## The parameters when there is none (R101, R103) -/

theorem montgomeryN1_of_radix_error {n : Nat} {c : Cause} (h : radix n = .error c) :
    montgomeryN1 n = .error c := by
  simp [montgomeryN1, h]

theorem montgomeryR1_of_radix_error {n : Nat} {c : Cause} (h : radix n = .error c) :
    montgomeryR1 n = .error c := by
  simp [montgomeryR1, h]

theorem montgomeryN1_of_inverseM_error {n r : Nat} {c : Cause} (hr : radix n = .ok r)
    (h : inverseM n r = .error c) : montgomeryN1 n = .error c := by
  simp [montgomeryN1, hr, h]

theorem montgomeryN1_of_inverseM_ok {n r : Nat} {inv : Int} (hr : radix n = .ok r)
    (h : inverseM n r = .ok inv) : montgomeryN1 n = .ok ((inv - r).natAbs : Int) := by
  simp [montgomeryN1, hr, h]

theorem montgomeryR1_of_radix_ok {n r : Nat} (hr : radix n = .ok r) :
    montgomeryR1 n = inverseM r n := by
  simp [montgomeryR1, hr]

theorem montgomeryN1_of_even {n : Nat} (hpos : n ≠ 0) (hlt : n < 2 ^ 31) (heven : n % 2 = 0) :
    montgomeryN1 n = .error .noModularInverseExists := by
  refine montgomeryN1_of_inverseM_error (radix_of_in_range hpos hlt)
    (inverseM_of_not_coprime (Nat.two_pow_pos _) ?_)
  rw [coprime_two_pow_succ_iff]
  omega

theorem montgomeryR1_of_even {n : Nat} (hpos : n ≠ 0) (hlt : n < 2 ^ 31) (heven : n % 2 = 0) :
    montgomeryR1 n = .error .noModularInverseExists := by
  rw [montgomeryR1_of_radix_ok (radix_of_in_range hpos hlt)]
  refine inverseM_of_not_coprime (Nat.pos_of_ne_zero hpos) ?_
  rw [Nat.coprime_comm, coprime_two_pow_succ_iff]
  omega

/-! ## The parameters of an odd modulus (R101, R103) -/

/-- `r - inv` is the negated inverse modulo `r`. -/
theorem dvd_mul_sub_add_one {n r inv : Nat} (hlt : inv < r) (h : n * inv ≡ 1 [MOD r]) :
    r ∣ n * (r - inv) + 1 := by
  refine Nat.modEq_zero_iff_dvd.mp ?_
  calc n * (r - inv) + 1 ≡ n * (r - inv) + n * inv [MOD r] := Nat.ModEq.add_left _ h.symm
    _ = n * r := by rw [← Nat.mul_add, Nat.sub_add_cancel hlt.le]
    _ ≡ 0 [MOD r] := Nat.modEq_zero_iff_dvd.mpr (Nat.dvd_mul_left r n)

/-- Since `0 < inv < r`, the absolute value of R101 is `r - inv`. -/
theorem montgomeryN1_of_odd {n : Nat} (hlt : n < 2 ^ 31) (hodd : n % 2 = 1) :
    ∃ n1 : Nat, montgomeryN1 n = .ok n1 ∧ 1 ≤ n1 ∧ n1 < 2 ^ (n.log2 + 1) ∧
      2 ^ (n.log2 + 1) ∣ n * n1 + 1 := by
  have hr := radix_of_in_range (by omega) hlt
  obtain ⟨inv, hok, hinv, hmod⟩ :=
    inverseM_of_coprime (Nat.two_pow_pos _) (coprime_two_pow_succ_iff (k := n.log2).mpr hodd)
  have hdvd := dvd_mul_sub_add_one hinv hmod
  have hn1 := montgomeryN1_of_inverseM_ok hr hok
  have htwo : 2 ≤ 2 ^ (n.log2 + 1) := Nat.le_self_pow (Nat.succ_ne_zero _) 2
  generalize 2 ^ (n.log2 + 1) = r at *
  have hinv0 : inv ≠ 0 := by
    rintro rfl
    have hone : r ∣ 1 := Nat.modEq_zero_iff_dvd.mp hmod.symm
    have hle := Nat.le_of_dvd Nat.one_pos hone
    omega
  have habs : ((inv : Int) - r).natAbs = r - inv := by omega
  rw [habs] at hn1
  exact ⟨r - inv, hn1, by omega, by omega, hdvd⟩

theorem montgomeryR1_of_odd {n : Nat} (hlt : n < 2 ^ 31) (hodd : n % 2 = 1) :
    ∃ r1 : Nat, montgomeryR1 n = .ok r1 ∧ r1 < n ∧ 2 ^ (n.log2 + 1) * r1 ≡ 1 [MOD n] := by
  rw [montgomeryR1_of_radix_ok (radix_of_in_range (by omega) hlt)]
  exact inverseM_of_coprime (by omega) (coprime_two_pow_succ_iff.mpr hodd).symm

/-! ## The unit relation (R105) -/

/-- `r * r1 - n * n1` is 1 modulo the coprime `r` and `n`, so modulo `r * n`, and it lies within
`r * n` of 1. -/
theorem mul_sub_mul_eq_one {n r n1 r1 : Nat} (hcop : n.Coprime r) (hn : 2 ≤ n) (hn1 : n1 < r)
    (hr1 : r1 < n) (hdvd : r ∣ n * n1 + 1) (hmod : r * r1 ≡ 1 [MOD n]) :
    (r : Int) * r1 - n * n1 = 1 := by
  have hdvdn : (n : Int) ∣ r * r1 - n * n1 - 1 := by
    have h : (n : Int) ∣ r * r1 - 1 := by exact_mod_cast Nat.modEq_iff_dvd.mp hmod.symm
    rw [sub_right_comm]
    exact h.sub (Int.dvd_mul_right _ _)
  have hdvdr : (r : Int) ∣ r * r1 - n * n1 - 1 := by
    have h : (r : Int) ∣ n * n1 + 1 := by exact_mod_cast hdvd
    rw [sub_sub]
    exact (Int.dvd_mul_right _ _).sub h
  have hdvdnr : (n * r : Int) ∣ r * r1 - n * n1 - 1 :=
    (Nat.isCoprime_iff_coprime.mpr hcop).mul_dvd hdvdn hdvdr
  have habs : |(r * r1 - n * n1 - 1 : Int)| < n * r := by
    have hlo : n * n1 + n ≤ n * r := Nat.mul_le_mul_left n hn1
    have hhi : r * r1 ≤ r * n := Nat.mul_le_mul_left r hr1.le
    rw [Nat.mul_comm r n] at hhi
    rw [abs_lt]
    constructor <;> omega
  exact sub_eq_zero.mp (Int.eq_zero_of_abs_lt_dvd hdvdnr habs)

/-- Settles O49: from 3 on by the congruences of both parameters; the bounds alone fix `r1 = 0` and
`n1 = 1` for `n = 1`. -/
theorem montgomeryUnitRelation : Obligations.MontgomeryUnitRelation := by
  intro n hodd hlt
  obtain ⟨n1, hokn, hpos, hn1, hdvd⟩ := montgomeryN1_of_odd hlt hodd
  obtain ⟨r1, hokr, hr1, hmod⟩ := montgomeryR1_of_odd hlt hodd
  refine ⟨_, n1, r1, radix_of_in_range (by omega) hlt, hokn, hokr, fun hn => ?_, ?_⟩
  · exact mul_sub_mul_eq_one (coprime_two_pow_succ_iff.mpr hodd) (by omega) hn1 hr1 hdvd hmod
  · rintro rfl
    obtain rfl : r1 = 0 := by omega
    obtain rfl : n1 = 1 := by
      have htwo : n1 < 2 := hn1
      omega
    rfl

/-! ## The commands `MN1` and `MR1` (R102, R104) -/

/-- A natural below `2^32` is delivered as the word of that value. -/
theorem exec_of_delivers_nat {i : Instr} {s : State} {v : Nat} (hv : v < 2 ^ 32)
    (h : commandResult i s.lat = deliverRes0 (.ok v)) :
    ∃ w : Word, w.toNat = v ∧ exec i s = .next { s with
      res := { s.res with res0 := w }, busy := false, done := true } :=
  ⟨wrap32 v, by rw [wrap32_natCast, BitVec.toNat_ofNat, Nat.mod_eq_of_lt hv], exec_of_delivers h⟩

theorem commandResult_mn1_of_montgomeryN1 {l : Operands} {v : Except Cause Int}
    (h : montgomeryN1 (u32 l.op0) = v) : commandResult .mn1 l = deliverRes0 v :=
  congrArg deliverRes0 h

theorem commandResult_mr1_of_montgomeryR1 {l : Operands} {v : Except Cause Int}
    (h : montgomeryR1 (u32 l.op0) = v) : commandResult .mr1 l = deliverRes0 v :=
  congrArg deliverRes0 h

/-- Settles O47: the outcomes of `montgomery_n1` in their order; `n1` is below the radix, which a
register holds. -/
theorem mn1DeliversTheNegatedInverse : Obligations.Mn1DeliversTheNegatedInverse := by
  refine fun s => ⟨fun hn => ?_, fun hpos hlt heven => ?_, fun hlt hodd => ?_⟩
  · exact exec_of_raises (commandResult_mn1_of_montgomeryN1
      (montgomeryN1_of_radix_error (radix_of_out_of_range hn)))
  · exact exec_of_raises (commandResult_mn1_of_montgomeryN1
      (montgomeryN1_of_even (Nat.ne_of_gt hpos) hlt heven))
  · have hn : s.lat.op0.toNat ≠ 0 := by omega
    obtain ⟨n1, hok, hpos, hn1, hdvd⟩ := montgomeryN1_of_odd hlt hodd
    have htop : s.lat.op0.toNat.log2 + 1 ≤ 32 := ((Nat.log2_lt hn).mpr hlt).trans (by decide)
    have hfits : 2 ^ (s.lat.op0.toNat.log2 + 1) ≤ 2 ^ 32 := Nat.pow_le_pow_right Nat.two_pos htop
    obtain ⟨v, rfl, hexec⟩ :=
      exec_of_delivers_nat (hn1.trans_le hfits) (commandResult_mn1_of_montgomeryN1 hok)
    exact ⟨_, v, Nat.log2_self_le hn, Nat.lt_log2_self, hpos, hn1, hdvd, hexec⟩

/-- Settles O48: the outcomes of `montgomery_r1` in their order; `r1` is below the modulus. -/
theorem mr1DeliversTheRadixInverse : Obligations.Mr1DeliversTheRadixInverse := by
  refine fun s => ⟨fun hn => ?_, fun hpos hlt heven => ?_, fun hlt hodd => ?_⟩
  · exact exec_of_raises (commandResult_mr1_of_montgomeryR1
      (montgomeryR1_of_radix_error (radix_of_out_of_range hn)))
  · exact exec_of_raises (commandResult_mr1_of_montgomeryR1
      (montgomeryR1_of_even (Nat.ne_of_gt hpos) hlt heven))
  · have hn : s.lat.op0.toNat ≠ 0 := by omega
    obtain ⟨r1, hok, hr1, hmod⟩ := montgomeryR1_of_odd hlt hodd
    obtain ⟨v, rfl, hexec⟩ :=
      exec_of_delivers_nat (hr1.trans (by omega)) (commandResult_mr1_of_montgomeryR1 hok)
    exact ⟨_, v, Nat.log2_self_le hn, Nat.lt_log2_self, hr1, hmod, hexec⟩

end Sys2Proof.Proofs.MontgomeryParams

/-!
PROOFS. The family of `spec/43_montgomery_reduce_exp.md`: the laws of one reduction (R110, R111) and
the command `MREDC` (R112), the exponentiation in Montgomery form (R113, R114) and the command
`MEXP` (R115), and its agreement with `POWM` (R116).
-/

namespace Sys2Proof.Proofs.MontgomeryReduceExp

open Sys2Proof.Machine Sys2Proof.Proofs.Scope Sys2Proof.Proofs.BitUtilities
  Sys2Proof.Proofs.MontgomeryParams

/-! ## One reduction (R110, R111) -/

/-- The multiple of `n` that a reduction adds: `m` of R110, in arithmetic. -/
def redcFactor (a k n1 : Nat) : Nat := a % 2 ^ k * n1 % 2 ^ k

/-- The value of a reduction before its subtraction: `t` of R110, in arithmetic. -/
def redcQuotient (a k n n1 : Nat) : Nat := (a + redcFactor a k n1 * n) / 2 ^ k

theorem redc_eq_ite (a k n n1 : Nat) :
    redc a k n n1 = if n ≤ redcQuotient a k n n1 then redcQuotient a k n n1 - n
      else redcQuotient a k n n1 := by
  rw [redcQuotient, redcFactor, ← Nat.and_two_pow_sub_one_eq_mod a k, ← Nat.shiftRight_eq_div_pow]
  rfl

theorem redc_of_le {a k n n1 : Nat} (h : n ≤ redcQuotient a k n n1) :
    redc a k n n1 = redcQuotient a k n n1 - n := by
  rw [redc_eq_ite, if_pos h]

theorem redc_of_lt {a k n n1 : Nat} (h : redcQuotient a k n n1 < n) :
    redc a k n n1 = redcQuotient a k n n1 := by
  rw [redc_eq_ite, if_neg h.not_ge]

/-- R111 (d), before the subtraction. -/
theorem two_pow_mul_redcQuotient_lt (a k n1 : Nat) {n : Nat} (hn : 1 ≤ n) :
    2 ^ k * redcQuotient a k n n1 < a + 2 ^ k * n :=
  calc 2 ^ k * redcQuotient a k n n1 ≤ a + redcFactor a k n1 * n := Nat.mul_div_le _ _
    _ < a + 2 ^ k * n :=
      Nat.add_lt_add_left (Nat.mul_lt_mul_of_pos_right (Nat.mod_lt _ (Nat.two_pow_pos k)) hn) a

/-- With a matching `n1` the shift of a reduction is exact (R111 (a)). -/
theorem redcQuotient_mul_two_pow {k n n1 : Nat} (a : Nat) (h : 2 ^ k ∣ n * n1 + 1) :
    redcQuotient a k n n1 * 2 ^ k = a + redcFactor a k n1 * n := by
  refine Nat.div_mul_cancel (Nat.modEq_zero_iff_dvd.mp ?_)
  have hfactor : redcFactor a k n1 ≡ a * n1 [MOD 2 ^ k] :=
    (Nat.mod_modEq _ _).trans ((Nat.mod_modEq a _).mul_right n1)
  calc a + redcFactor a k n1 * n ≡ a + a * n1 * n [MOD 2 ^ k] := (hfactor.mul_right n).add_left a
    _ = a * (n * n1 + 1) := by ring
    _ ≡ 0 [MOD 2 ^ k] := Nat.modEq_zero_iff_dvd.mpr (h.mul_left a)

theorem redc_modEq_redcQuotient (a k n n1 : Nat) :
    redc a k n n1 ≡ redcQuotient a k n n1 [MOD n] := by
  rcases Nat.lt_or_ge (redcQuotient a k n n1) n with h | h
  · rw [redc_of_lt h]
  · rw [redc_of_le h]
    exact (Nat.mod_eq_sub_mod h).symm

/-- R111 (a): one reduction multiplies by the inverse of the radix. -/
theorem redc_mul_two_pow_modEq {k n n1 : Nat} (a : Nat) (h : 2 ^ k ∣ n * n1 + 1) :
    redc a k n n1 * 2 ^ k ≡ a [MOD n] :=
  calc redc a k n n1 * 2 ^ k
    _ ≡ redcQuotient a k n n1 * 2 ^ k [MOD n] := (redc_modEq_redcQuotient a k n n1).mul_right _
    _ = a + redcFactor a k n1 * n := redcQuotient_mul_two_pow a h
    _ ≡ a [MOD n] := Nat.add_mul_modulus_modEq_iff.mpr rfl

/-- R111 (b): the value before the subtraction is below `2 * n`. -/
theorem redc_lt_modulus {a k n : Nat} (n1 : Nat) (hn : 1 ≤ n) (ha : a < 2 ^ k * n) :
    redc a k n n1 < n := by
  have hquot : redcQuotient a k n n1 < 2 * n := by
    have hmul := two_pow_mul_redcQuotient_lt a k n1 hn
    refine Nat.lt_of_mul_lt_mul_left (a := 2 ^ k) ?_
    rw [Nat.mul_left_comm]
    omega
  rw [redc_eq_ite]
  split_ifs <;> omega

theorem redc_le_redcQuotient (a k n n1 : Nat) : redc a k n n1 ≤ redcQuotient a k n n1 := by
  rw [redc_eq_ite]
  split_ifs <;> omega

/-- Settles O50: (a) and (b) of R111, and (d) since the subtraction only lowers the value. -/
theorem reductionLaws : Obligations.ReductionLaws := fun a k n n1 hn =>
  ⟨redc_mul_two_pow_modEq a, redc_lt_modulus n1 hn,
    (Nat.mul_le_mul_left _ (redc_le_redcQuotient a k n n1)).trans_lt
      (two_pow_mul_redcQuotient_lt a k n1 hn)⟩

/-! ## The command `MREDC` (R112) -/

/-- Whether or not the parameters match, a bound of the argument and the modulus bounds the
result. -/
theorem redc_lt_of_lt {a n b : Nat} (k n1 : Nat) (hn : 1 ≤ n) (ha : a < b) (hnb : n < b) :
    redc a k n n1 < b := by
  rcases Nat.lt_or_ge (redcQuotient a k n n1) n with h | h
  · rw [redc_of_lt h]
    exact h.trans hnb
  · rw [redc_of_le h]
    have hquot := two_pow_mul_redcQuotient_lt a k n1 hn
    have hle : 2 ^ k * n ≤ 2 ^ k * redcQuotient a k n n1 := Nat.mul_le_mul_left _ h
    have hmul : 2 ^ k * (redcQuotient a k n n1 - n) < a := by
      rw [Nat.mul_sub]
      omega
    exact ((Nat.le_mul_of_pos_left _ (Nat.two_pow_pos k)).trans_lt hmul).trans ha

theorem montgomeryReduce_of_nonpos (a k n1 : Int) {n : Int} (hn : n ≤ 0) :
    montgomeryReduce a k n n1 = .error .modulusNonPositive :=
  if_pos hn

theorem montgomeryReduce_of_out_of_range {a k n n1 : Int} (hn : 0 < n)
    (h : a < 0 ∨ k < 0 ∨ 31 < k ∨ n1 < 0) : montgomeryReduce a k n n1 = .error .operandRange := by
  rw [montgomeryReduce, if_neg hn.not_ge, if_pos h]

theorem montgomeryReduce_of_in_range (a n1 : Nat) {k n : Nat} (hn : 0 < n) (hk : k ≤ 31) :
    montgomeryReduce a k n n1 = .ok (redc a k n n1 : Int) := by
  rw [montgomeryReduce, if_neg (by omega), if_neg (by omega)]
  simp only [Int.toNat_natCast]

theorem commandResult_mredc_of_montgomeryReduce {l : Operands} {v : Except Cause Int}
    (h : montgomeryReduce (s32 l.op0) (s32 l.op1) (s32 l.op2) (s32 l.op3) = v) :
    commandResult .mredc l = deliverRes0 v :=
  congrArg deliverRes0 h

/-- Settles O51: the outcomes of the reduction in their order; operands below `2^31` have a result
below `2^31`, which a register holds as a signed value. -/
theorem mredcDeliversTheReduction : Obligations.MredcDeliversTheReduction := by
  intro s a k n n1 ha hk hn hn1
  have hresult {v} (h : montgomeryReduce a k n n1 = v) :
      commandResult .mredc s.lat = deliverRes0 v :=
    commandResult_mredc_of_montgomeryReduce (ha ▸ hk ▸ hn ▸ hn1 ▸ h)
  refine ⟨fun hn0 => ?_, fun hpos hrange => ?_, fun hpos ha0 hk0 hk31 hn10 => ?_⟩
  · exact exec_of_raises (hresult (montgomeryReduce_of_nonpos a k n1 hn0))
  · exact exec_of_raises (hresult (montgomeryReduce_of_out_of_range hpos hrange))
  · have haLt : a < 2 ^ 31 := ha ▸ (s32_bounds _).2
    have hnLt : n < 2 ^ 31 := hn ▸ (s32_bounds _).2
    clear ha hk hn hn1
    lift a to Nat using ha0
    lift k to Nat using hk0
    lift n to Nat using hpos.le
    lift n1 to Nat using hn10
    have hlt : redc a k n n1 < 2 ^ 31 := redc_lt_of_lt k n1 (by omega) (by omega) (by omega)
    have hv : s32 (wrap32 (redc a k n n1)) = redc a k n n1 :=
      s32_wrap32_of_mem (by omega) (by exact_mod_cast hlt)
    refine ⟨redcFactor a k n1, redcQuotient a k n n1, wrap32 (redc a k n n1), rfl, rfl,
      fun h => ?_, fun h => ?_, ?_, ?_⟩
    · rw [hv, redc_of_le (by exact_mod_cast h)]
      exact Int.ofNat_sub (by exact_mod_cast h)
    · rw [hv, redc_of_lt (by exact_mod_cast h)]
    · rw [hv]
      exact Int.natCast_nonneg _
    · exact exec_of_delivers
        (hresult (montgomeryReduce_of_in_range a n1 (by omega) (by omega)))

/-! ## Square and multiply (R113, R125) -/

/-- The loop of both exponentiations, over their multiplication `mul`. -/
def squareMultiply (mul : Nat → Nat → Nat) : Nat → Nat → Nat → Nat → Nat
  | 0, acc, _, _ => acc
  | fuel + 1, acc, b, d =>
    if d = 0 then acc
    else squareMultiply mul fuel (if d % 2 = 1 then mul acc b else acc) (mul b b) (d / 2)

theorem montgomeryLoop_eq_squareMultiply (k n n1 fuel acc b d : Nat) :
    montgomeryLoop k n n1 fuel acc b d =
      squareMultiply (fun u v => redc (u * v) k n n1) fuel acc b d := by
  induction fuel generalizing acc b d with
  | zero => rfl
  | succ fuel ih =>
    simp only [montgomeryLoop, squareMultiply, ih, Nat.and_one_is_mod, Nat.shiftRight_one]

theorem powmLoop_eq_squareMultiply (n fuel acc b d : Nat) :
    powmLoop n fuel acc b d = squareMultiply (fun u v => u * v % n) fuel acc b d := by
  induction fuel generalizing acc b d with
  | zero => rfl
  | succ fuel ih =>
    simp only [powmLoop, squareMultiply, ih, Nat.and_one_is_mod, Nat.shiftRight_one]

theorem squareMultiply_zero_exponent (mul : Nat → Nat → Nat) (fuel acc b : Nat) :
    squareMultiply mul fuel acc b 0 = acc := by
  cases fuel <;> rfl

theorem squareMultiply_succ {d : Nat} (mul : Nat → Nat → Nat) (fuel acc b : Nat) (hd : d ≠ 0) :
    squareMultiply mul (fuel + 1) acc b d =
      squareMultiply mul fuel (if d % 2 = 1 then mul acc b else acc) (mul b b) (d / 2) :=
  if_neg hd

/-- Where `Rep u e` says that `u` stands for `e` and `mul` multiplies what its arguments stand for,
the loop raises what the base stands for to the exponent. -/
theorem squareMultiply_rep {mul : Nat → Nat → Nat} {Rep : Nat → Nat → Prop}
    (hmul : ∀ {u v e y}, Rep u e → Rep v y → Rep (mul u v) (e * y))
    {fuel acc b d e y : Nat} (hd : d ≤ fuel) (hacc : Rep acc e) (hb : Rep b y) :
    Rep (squareMultiply mul fuel acc b d) (e * y ^ d) := by
  induction fuel generalizing acc b d e y with
  | zero =>
    obtain rfl := Nat.le_zero.mp hd
    simpa [squareMultiply_zero_exponent] using hacc
  | succ fuel ih =>
    obtain rfl | hd0 := eq_or_ne d 0
    · simpa [squareMultiply_zero_exponent] using hacc
    rw [squareMultiply_succ mul fuel acc b hd0]
    have hhalf : d / 2 ≤ fuel := by omega
    have hsplit : y ^ d = y ^ (d % 2) * (y * y) ^ (d / 2) := by
      rw [← pow_two, ← pow_mul, ← pow_add, Nat.mod_add_div]
    rw [hsplit, ← Nat.mul_assoc]
    refine ih hhalf ?_ (hmul hb hb)
    rcases Nat.mod_two_eq_zero_or_one d with heven | hodd
    · simpa [heven] using hacc
    · simpa [hodd] using hmul hacc hb

/-- The highest bit of an exponent other than 0 makes the loop end in a product. -/
theorem exists_squareMultiply_eq_mul (mul : Nat → Nat → Nat) {fuel d : Nat} (acc b : Nat)
    (hd : d ≤ fuel) (hd0 : d ≠ 0) : ∃ u v, squareMultiply mul fuel acc b d = mul u v := by
  induction fuel generalizing acc b d with
  | zero => omega
  | succ fuel ih =>
    rw [squareMultiply_succ mul fuel acc b hd0]
    obtain rfl | hd1 := eq_or_ne d 1
    · exact ⟨acc, b, squareMultiply_zero_exponent mul fuel _ _⟩
    · exact ih _ _ (by omega) (by omega)

/-! ## The exponentiation in Montgomery form (R113, R114) -/

/-- `u` is a Montgomery form of `e`, not necessarily reduced: `u ≡ e * 2^k (mod n)`. -/
def IsFormOf (k n u e : Nat) : Prop := u ≡ e * 2 ^ k [MOD n]

theorem isFormOf_mod (k n e : Nat) : IsFormOf k n (e * 2 ^ k % n) e := Nat.mod_modEq _ _

/-- The reduction of the product of two forms is a form of the product. -/
theorem IsFormOf.redc_mul {k n n1 u v e y : Nat} (hcop : n.Coprime (2 ^ k))
    (hdvd : 2 ^ k ∣ n * n1 + 1) (hu : IsFormOf k n u e) (hv : IsFormOf k n v y) :
    IsFormOf k n (redc (u * v) k n n1) (e * y) := by
  refine Nat.ModEq.cancel_right_of_coprime hcop ?_
  calc redc (u * v) k n n1 * 2 ^ k ≡ u * v [MOD n] := redc_mul_two_pow_modEq _ hdvd
    _ ≡ e * 2 ^ k * (y * 2 ^ k) [MOD n] := Nat.ModEq.mul hu hv
    _ = e * y * 2 ^ k * 2 ^ k := by ring

/-- The multiplication by `r1` takes a form back to the residue it stands for. -/
theorem IsFormOf.mul_inverse_mod {k n r1 u e : Nat} (hr1 : 2 ^ k * r1 ≡ 1 [MOD n])
    (hu : IsFormOf k n u e) : u * r1 % n = e % n :=
  calc u * r1 ≡ e * 2 ^ k * r1 [MOD n] := Nat.ModEq.mul_right r1 hu
    _ = e * (2 ^ k * r1) := Nat.mul_assoc _ _ _
    _ ≡ e * 1 [MOD n] := hr1.mul_left e
    _ = e := Nat.mul_one e

theorem isFormOf_montgomeryLoop {k n n1 : Nat} (x d : Nat) (hcop : n.Coprime (2 ^ k))
    (hdvd : 2 ^ k ∣ n * n1 + 1) :
    IsFormOf k n (montgomeryLoop k n n1 d (1 * 2 ^ k % n) (x * 2 ^ k % n) d) (x ^ d) := by
  rw [montgomeryLoop_eq_squareMultiply, ← Nat.one_mul (x ^ d)]
  exact squareMultiply_rep (fun hu hv => hu.redc_mul hcop hdvd hv) le_rfl (isFormOf_mod k n 1)
    (isFormOf_mod k n x)

theorem montgomery_of_radix_error (x d : Int) {n : Nat} {c : Cause} (h : radix n = .error c) :
    montgomery x d n = .error c := by
  simp only [montgomery, h]

theorem montgomery_of_out_of_range {x d : Int} {n : Nat} (hpos : n ≠ 0) (hlt : n < 2 ^ 31)
    (h : x < 0 ∨ d < 0) : montgomery x d n = .error .operandRange := by
  simp only [montgomery, radix_of_in_range hpos hlt, if_pos h]

theorem montgomery_of_even {x d : Int} {n : Nat} (hpos : n ≠ 0) (hlt : n < 2 ^ 31) (hx : 0 ≤ x)
    (hd : 0 ≤ d) (heven : n % 2 = 0) : montgomery x d n = .error .noModularInverseExists := by
  have hrange : ¬ (x < 0 ∨ d < 0) := by omega
  simp only [montgomery, radix_of_in_range hpos hlt, if_neg hrange, msb32_of_ne_zero hpos,
    montgomeryN1_of_even hpos hlt heven]

/-- R114 (a). -/
theorem montgomery_of_odd (x d : Nat) {n : Nat} (hlt : n < 2 ^ 31) (hodd : n % 2 = 1) :
    montgomery x d n = .ok ((x ^ d % n : Nat) : Int) := by
  have hpos : n ≠ 0 := by omega
  obtain ⟨n1, hokn, -, -, hdvd⟩ := montgomeryN1_of_odd hlt hodd
  obtain ⟨r1, hokr, -, hr1⟩ := montgomeryR1_of_odd hlt hodd
  have hrange : ¬ ((x : Int) < 0 ∨ (d : Int) < 0) := by omega
  rw [← (isFormOf_montgomeryLoop x d (coprime_two_pow_succ_iff.mpr hodd)
    hdvd).mul_inverse_mod hr1]
  simp only [montgomery, radix_of_in_range hpos hlt, if_neg hrange, msb32_of_ne_zero hpos, hokn,
    hokr, Int.toNat_natCast]
  rfl

/-! ## The command `MEXP` (R115) -/

/-- The two readings of a word: equal below `2^31`, and negative as signed from there on. -/
theorem s32_cases (b : Word) :
    (u32 b < 2 ^ 31 ∧ s32 b = u32 b) ∨ (2 ^ 31 ≤ u32 b ∧ s32 b < 0) := by
  have hlt := u32_lt b
  rw [s32_eq_toInt, BitVec.toInt_eq_toNat_cond]
  unfold u32 at *
  split_ifs <;> omega

theorem s32_eq_u32 {b : Word} (h : 0 ≤ s32 b) : s32 b = u32 b := by
  obtain ⟨-, heq⟩ | ⟨-, hneg⟩ := s32_cases b
  · exact heq
  · omega

theorem commandResult_mexp_of_montgomery {l : Operands} {v : Except Cause Int}
    (h : montgomery (s32 l.op0) (s32 l.op1) (u32 l.op2) = v) :
    commandResult .mexp l = deliverRes0 v :=
  congrArg deliverRes0 h

theorem commandResult_mexp_of_modulus {l : Operands} (h : u32 l.op2 = 0 ∨ 2 ^ 31 ≤ u32 l.op2) :
    commandResult .mexp l = .err .modulusNonPositive :=
  commandResult_mexp_of_montgomery
    (montgomery_of_radix_error _ _ (radix_of_out_of_range h))

theorem commandResult_mexp_of_out_of_range {l : Operands} (hpos : u32 l.op2 ≠ 0)
    (hlt : u32 l.op2 < 2 ^ 31) (h : s32 l.op0 < 0 ∨ s32 l.op1 < 0) :
    commandResult .mexp l = .err .operandRange :=
  commandResult_mexp_of_montgomery (montgomery_of_out_of_range hpos hlt h)

theorem commandResult_mexp_of_even {l : Operands} (hpos : u32 l.op2 ≠ 0)
    (hlt : u32 l.op2 < 2 ^ 31) (hx : 0 ≤ s32 l.op0) (hd : 0 ≤ s32 l.op1)
    (heven : u32 l.op2 % 2 = 0) : commandResult .mexp l = .err .noModularInverseExists :=
  commandResult_mexp_of_montgomery (montgomery_of_even hpos hlt hx hd heven)

theorem commandResult_mexp_of_odd {l : Operands} (hlt : u32 l.op2 < 2 ^ 31) (hx : 0 ≤ s32 l.op0)
    (hd : 0 ≤ s32 l.op1) (hodd : u32 l.op2 % 2 = 1) :
    commandResult .mexp l =
      deliverRes0 (.ok ((u32 l.op0 ^ u32 l.op1 % u32 l.op2 : Nat) : Int)) := by
  refine commandResult_mexp_of_montgomery ?_
  rw [s32_eq_u32 hx, s32_eq_u32 hd]
  exact montgomery_of_odd _ _ hlt hodd

theorem residue_lt_two_pow_32 (e : Nat) {b : Word} (h : u32 b ≠ 0) : e % u32 b < 2 ^ 32 :=
  (Nat.mod_lt e (Nat.pos_of_ne_zero h)).trans (u32_lt b)

/-- Settles O52: the outcomes of `montgomery` in their order; the residue is below the modulus. -/
theorem mexpDeliversThePower : Obligations.MexpDeliversThePower := by
  refine fun s => ⟨fun hn => ?_, fun hpos hlt hrange => ?_, fun hpos hlt hx hd heven => ?_,
    fun hlt hx hd hodd => ?_⟩
  · exact exec_of_raises (commandResult_mexp_of_modulus hn)
  · exact exec_of_raises (commandResult_mexp_of_out_of_range (Nat.ne_of_gt hpos) hlt hrange)
  · exact exec_of_raises (commandResult_mexp_of_even (Nat.ne_of_gt hpos) hlt hx hd heven)
  · have hpos : s.lat.op2.toNat ≠ 0 := by omega
    exact exec_of_delivers_nat (residue_lt_two_pow_32 _ hpos)
      (commandResult_mexp_of_odd hlt hx hd hodd)

/-! ## The binary exponentiation (R125), as far as the agreement needs it -/

theorem powmLoop_modEq (n a d : Nat) : powmLoop n d 1 a d ≡ a ^ d [MOD n] := by
  rw [powmLoop_eq_squareMultiply, ← Nat.one_mul (a ^ d)]
  exact squareMultiply_rep (Rep := Nat.ModEq n)
    (fun hu hv => (Nat.mod_modEq _ _).trans (hu.mul hv)) le_rfl rfl rfl

/-- With a bit in the exponent the last product is reduced. -/
theorem powmLoop_of_ne_zero {n d : Nat} (a : Nat) (hn : n ≠ 0) (hd : d ≠ 0) :
    powmLoop n d 1 a d = a ^ d % n := by
  have hlt : powmLoop n d 1 a d < n := by
    obtain ⟨u, v, huv⟩ := exists_squareMultiply_eq_mul (fun u v => u * v % n) 1 a le_rfl hd
    rw [powmLoop_eq_squareMultiply, huv]
    exact Nat.mod_lt _ (Nat.pos_of_ne_zero hn)
  exact (Nat.mod_eq_of_lt hlt).symm.trans (powmLoop_modEq n a d)

theorem powmLoop_zero_exponent (n a : Nat) : powmLoop n 0 1 a 0 = 1 := rfl

theorem powmLoop_of_two_le {n : Nat} (a d : Nat) (hn : 2 ≤ n) :
    powmLoop n d 1 a d = a ^ d % n := by
  obtain rfl | hd := eq_or_ne d 0
  · rw [powmLoop_zero_exponent, Nat.pow_zero, Nat.mod_eq_of_lt hn]
  · exact powmLoop_of_ne_zero a (by omega) hd

theorem powm_of_nonpos (a d : Int) {n : Int} (hn : n ≤ 0) :
    powm a d n = .error .modulusNonPositive :=
  if_pos hn

theorem powm_of_out_of_range {a d n : Int} (hn : 0 < n) (h : a < 0 ∨ d < 0) :
    powm a d n = .error .operandRange := by
  rw [powm, if_neg hn.not_ge, if_pos h]

theorem powm_of_in_range (a d : Nat) {n : Nat} (hn : n ≠ 0) :
    powm a d n = .ok (powmLoop n d 1 a d : Int) := by
  rw [powm, if_neg (by omega), if_neg (by omega)]
  simp only [Int.toNat_natCast]

theorem commandResult_powm_of_powm {l : Operands} {v : Except Cause Int}
    (h : powm (s32 l.op0) (s32 l.op1) (s32 l.op2) = v) :
    commandResult .powm l = deliverRes0 v :=
  congrArg deliverRes0 h

theorem commandResult_powm_of_in_range {l : Operands} (ha : 0 ≤ s32 l.op0) (hd : 0 ≤ s32 l.op1)
    (hn : 0 < s32 l.op2) :
    commandResult .powm l =
      deliverRes0 (.ok (powmLoop (u32 l.op2) (u32 l.op1) 1 (u32 l.op0) (u32 l.op1) : Int)) := by
  have heq := s32_eq_u32 hn.le
  refine commandResult_powm_of_powm ?_
  rw [s32_eq_u32 ha, s32_eq_u32 hd, heq]
  exact powm_of_in_range _ _ (by omega)

/-! ## The agreement of the two exponentiations (R116) -/

theorem complete_deliverRes0_res0 (v : Int) (s : State) :
    (complete (deliverRes0 (.ok v)) s).res.res0 = wrap32 v := rfl

/-- The two readings of a modulus that is not positive as signed. -/
theorem u32_eq_zero_or_ge_of_s32_nonpos {b : Word} (h : s32 b ≤ 0) :
    u32 b = 0 ∨ 2 ^ 31 ≤ u32 b := by
  obtain ⟨-, heq⟩ | ⟨hge, -⟩ := s32_cases b
  · omega
  · exact .inr hge

theorem u32_pos_lt_of_s32_pos {b : Word} (h : 0 < s32 b) : u32 b ≠ 0 ∧ u32 b < 2 ^ 31 := by
  obtain ⟨hlt, heq⟩ | ⟨-, hneg⟩ := s32_cases b
  · exact ⟨by omega, hlt⟩
  · omega

/-- Settles O54: each clause is the two commands' outcomes under its premises. -/
theorem exponentiationsAgree : Obligations.ExponentiationsAgree := by
  intro s
  refine ⟨_, _, exec_eq_complete .mexp s, exec_eq_complete .powm s, fun hn hodd ha hd => ?_,
    fun hn ha hd => ?_, fun hn heven ha hd => ?_, fun hn => ?_, fun hn hrange => ?_⟩
  · have hpos : 0 < s32 s.lat.op2 := by omega
    have heq := s32_eq_u32 hpos.le
    obtain ⟨hn0, hlt⟩ := u32_pos_lt_of_s32_pos hpos
    rw [commandResult_mexp_of_odd hlt ha hd (by omega), commandResult_powm_of_in_range ha hd hpos,
      powmLoop_of_two_le _ _ (by omega)]
    refine ⟨rfl, rfl, ?_⟩
    rw [complete_deliverRes0_res0, wrap32_natCast, BitVec.toNat_ofNat]
    exact Nat.mod_eq_of_lt (residue_lt_two_pow_32 _ hn0)
  · have hone : u32 s.lat.op2 = 1 := by rw [hn]; rfl
    have hpos : 0 < s32 s.lat.op2 := by rw [hn]; decide
    rw [commandResult_mexp_of_odd (by omega) ha hd (by omega),
      commandResult_powm_of_in_range ha hd hpos, hone, Nat.mod_one]
    refine ⟨rfl, rfl, rfl, ?_⟩
    rw [complete_deliverRes0_res0, wrap32_natCast]
    split_ifs with hd0
    · rw [hd0]
      rfl
    · have hd0' : u32 s.lat.op1 ≠ 0 := fun h => hd0 (BitVec.eq_of_toNat_eq h)
      rw [powmLoop_of_ne_zero _ Nat.one_ne_zero hd0', Nat.mod_one]
      rfl
  · have hpos : 0 < s32 s.lat.op2 := by omega
    have heq := s32_eq_u32 hpos.le
    obtain ⟨hn0, hlt⟩ := u32_pos_lt_of_s32_pos hpos
    rw [commandResult_mexp_of_even hn0 hlt ha hd (by omega),
      commandResult_powm_of_in_range ha hd hpos]
    exact ⟨rfl, rfl, rfl⟩
  · rw [commandResult_mexp_of_modulus (u32_eq_zero_or_ge_of_s32_nonpos hn),
      commandResult_powm_of_powm (powm_of_nonpos _ _ hn)]
    exact ⟨rfl, rfl, rfl⟩
  · obtain ⟨hn0, hlt⟩ := u32_pos_lt_of_s32_pos hn
    rw [commandResult_mexp_of_out_of_range hn0 hlt hrange,
      commandResult_powm_of_powm (powm_of_out_of_range hn hrange)]
    exact ⟨rfl, rfl, rfl⟩

end Sys2Proof.Proofs.MontgomeryReduceExp

/-!
PROOFS. The family of `spec/44_binary_exp.md`: the command `POWM` (R126) delivers the power of R127.
-/

namespace Sys2Proof.Proofs.BinaryExp

open Sys2Proof.Machine Sys2Proof.Proofs.BitUtilities Sys2Proof.Proofs.MontgomeryParams
  Sys2Proof.Proofs.MontgomeryReduceExp

theorem commandResult_powm_of_nonpos {l : Operands} (hn : s32 l.op2 ≤ 0) :
    commandResult .powm l = .err .modulusNonPositive :=
  commandResult_powm_of_powm (powm_of_nonpos _ _ hn)

theorem commandResult_powm_of_out_of_range {l : Operands} (hn : 0 < s32 l.op2)
    (h : s32 l.op0 < 0 ∨ s32 l.op1 < 0) : commandResult .powm l = .err .operandRange :=
  commandResult_powm_of_powm (powm_of_out_of_range hn h)

/-- R127 (b), (c): without a bit in the exponent the accumulator's 1 is delivered, reduced or not. -/
theorem commandResult_powm_of_zero_exponent {l : Operands} (ha : 0 ≤ s32 l.op0) (hd : l.op1 = 0)
    (hn : 0 < s32 l.op2) : commandResult .powm l = deliverRes0 (.ok ((1 : Nat) : Int)) := by
  have hd0 : 0 ≤ s32 l.op1 := by rw [hd]; decide
  have hexp : u32 l.op1 = 0 := by rw [hd]; rfl
  rw [commandResult_powm_of_in_range ha hd0 hn, hexp, powmLoop_zero_exponent]

/-- R127 (a). -/
theorem commandResult_powm_of_ne_zero {l : Operands} (ha : 0 ≤ s32 l.op0) (hd : 0 ≤ s32 l.op1)
    (hd0 : l.op1 ≠ 0) (hn : 0 < s32 l.op2) :
    commandResult .powm l =
      deliverRes0 (.ok ((u32 l.op0 ^ u32 l.op1 % u32 l.op2 : Nat) : Int)) := by
  have hexp : u32 l.op1 ≠ 0 := fun h => hd0 (BitVec.eq_of_toNat_eq h)
  rw [commandResult_powm_of_in_range ha hd hn,
    powmLoop_of_ne_zero _ (u32_pos_lt_of_s32_pos hn).1 hexp]

/-- Settles O53: the outcomes of `powm` in their order; the exponent 0 is apart, since there the
delivered 1 need not be a residue of the modulus. -/
theorem powmDeliversThePower : Obligations.PowmDeliversThePower := by
  refine fun s => ⟨fun hn => ?_, fun hn hrange => ?_, fun hn ha hd => ?_⟩
  · exact exec_of_raises (commandResult_powm_of_nonpos hn)
  · exact exec_of_raises (commandResult_powm_of_out_of_range hn hrange)
  · by_cases hd0 : s.lat.op1 = 0
    · exact ⟨1, fun _ => rfl, fun h => absurd hd0 h,
        exec_of_delivers (commandResult_powm_of_zero_exponent ha hd0 hn)⟩
    · obtain ⟨hn0, -⟩ := u32_pos_lt_of_s32_pos hn
      obtain ⟨v, hv, hexec⟩ := exec_of_delivers_nat (residue_lt_two_pow_32 _ hn0)
        (commandResult_powm_of_ne_zero ha hd hd0 hn)
      exact ⟨v, fun h => absurd h hd0, fun _ => hv, hexec⟩

end Sys2Proof.Proofs.BinaryExp

/-!
PROOFS. The family of `spec/60_exceptions.md`: the causes a command can raise (R130), how a completion
follows its outcome (R131), what the block does while busy or in error (R134, R136 to R138), and what
`DONE` and an error say of the last command (R135).
-/

namespace Sys2Proof.Proofs.Exceptions

open Sys2Proof.Machine Sys2Proof.Proofs.BlockState Sys2Proof.Proofs.Memory Sys2Proof.Proofs.Encoding
  Sys2Proof.Proofs.BitUtilities

/-! ## What `STATUS` says of the last command (R135) -/

/-- A block that shows no completion and no error of a command's own claims nothing. -/
theorem outcomeCurrent_of_no_outcome {s : State} (hd : s.done = false)
    (hc : ∀ c, s.cause = some c → c = .illegalCommand) : s.outcomeCurrent :=
  ⟨fun h => by simp [hd] at h, fun c h hne => absurd (hc c h) hne⟩

/-- The completion of the running command makes its outcome the current one. -/
theorem outcomeCurrent_complete {s : State} {i : Instr} (hinv : s.Inv) (hb : s.busy = true)
    (hop : s.lastOp = opcodeOf i) : (complete (commandResult i s.lat) s).outcomeCurrent := by
  obtain ⟨hd, he⟩ := flags_of_busy hinv hb
  have hc : s.cause = none := cause_eq_none_of_no_error hinv he
  cases hr : commandResult i s.lat with
  | ok ws => exact ⟨fun _ => ⟨i, ws, s.res, hop, hr, rfl⟩, by simp [hc]⟩
  | err c =>
    refine ⟨by simp [hd], fun c' hc' _ => ⟨i, hop, ?_⟩⟩
    cases hc'
    exact hr

theorem outcomeCurrent_engineStep {s t : State} (hinv : s.Inv) (hcur : s.outcomeCurrent)
    (h : engineStep s = .next t) : t.outcomeCurrent := by
  obtain ⟨-, rfl⟩ | ⟨hb, i, hi, rfl⟩ := engineStep_next h
  · exact hcur
  · exact outcomeCurrent_complete hinv hb (opcodeOf_of_decodeOpcode hi)

/-- An acceptance and a rejection clear `DONE`; every other host write leaves `RES`, `LASTOP` and
the latches alone and raises no error. -/
theorem outcomeCurrent_hostWrite (i : Nat) (v : Word) {s : State} (hinv : s.Inv)
    (hcur : s.outcomeCurrent) : (hostWrite i v s).outcomeCurrent := by
  obtain h | ⟨-, -, he, -, h⟩ | ⟨-, -, -, h⟩ | ⟨-, h⟩ | ⟨-, -, o, h⟩ :=
    hostWrite_effects i v s <;> rw [h]
  · exact hcur
  · exact outcomeCurrent_of_no_outcome rfl (by simp [cause_eq_none_of_no_error hinv he])
  · exact outcomeCurrent_of_no_outcome rfl (by simp)
  · obtain ⟨hdone, -⟩ := hcur
    exact ⟨hdone, by simp⟩
  · exact hcur

theorem outcomeCurrent_step {s t : State} (hinv : s.Inv) (hcur : s.outcomeCurrent)
    (hstep : step s = .next t) : t.outcomeCurrent := by
  obtain ⟨-, es, h⟩ | ⟨i, rest, -, rfl⟩ | ⟨i, v, rest, -, rfl⟩ | ⟨rest, -, rfl⟩ :=
    step_next_transition hstep
  · exact outcomeCurrent_engineStep (s := { s with events := es }) hinv hcur h
  · exact hcur
  · exact outcomeCurrent_hostWrite i v (s := { s with events := rest }) hinv hcur
  · exact outcomeCurrent_of_no_outcome rfl (by simp)

/-- Settles O37: the reset state shows no outcome, and every kind of transition keeps the claim. -/
theorem resultsBelongToTheLastCommand : Obligations.ResultsBelongToTheLastCommand :=
  ⟨outcomeCurrent_of_no_outcome rfl (by simp [State.reset]), fun _ _ => outcomeCurrent_step⟩

/-! ## The causes of each command, and what a completion does with an outcome (R130, R131) -/

theorem msb32Result_error {l : Operands} {c : Cause} (h : msb32Result l = .err c) :
    c = .bitScanOfZero := by
  cases hk : msb32 (u32 l.op0) with
  | none =>
    rw [msb32Result_of_eq_none hk] at h
    cases h
    rfl
  | some k => simp [msb32Result_of_eq_some hk] at h

/-- Settles O26: each command raises what the function behind its rule raises. -/
theorem errorCausesOfEachCommand : Obligations.ErrorCausesOfEachCommand := by
  refine fun l c => ⟨msb32Result_error, fun h => ?_, fun h => ?_,
    fun h => inverseM_error (deliverRes0_eq_err.mp h),
    fun h => montgomeryN1_error (deliverRes0_eq_err.mp h),
    fun h => montgomeryR1_error (deliverRes0_eq_err.mp h),
    fun h => montgomeryReduce_error (deliverRes0_eq_err.mp h),
    fun h => montgomery_error (deliverRes0_eq_err.mp h),
    fun h => powm_error (deliverRes0_eq_err.mp h)⟩
  · cases h
  · cases h

/-- Settles O25: `exec` is the completion with the command's outcome. -/
theorem completionFollowsTheOutcome : Obligations.CompletionFollowsTheOutcome := by
  refine fun i s => ⟨fun c hr => ?_, fun ws hr => ?_⟩
  · rw [exec_eq_complete, hr]
    rfl
  · rw [exec_eq_complete, hr]
    rfl

/-! ## While a command runs or an error stands (R134, R136 to R138) -/

/-- In the error state a host write stores at most an operand, or is the status write that clears
the error. -/
theorem hostWrite_of_error (i : Nat) (v : Word) {s : State} (he : s.err = true) :
    (∃ o, hostWrite i v s = { s with op := o }) ∨
    (i = 1 ∧ clearsError v = true ∧ hostWrite i v s = { s with err := false, cause := none }) := by
  obtain ⟨-, h⟩ | ⟨hi, h⟩ | ⟨-, -, hop⟩ | ⟨-, h⟩ := hostWrite_cases i v s
  · obtain ⟨-, hw⟩ | ⟨-, he', -⟩ | ⟨-, he', -⟩ := writeCommand_cases v s
    · exact .inl ⟨s.op, h.trans hw⟩
    · simp [he] at he'
    · simp [he] at he'
  · obtain ⟨hv, -, hw⟩ | ⟨-, hw⟩ := writeStatus_cases v s
    · exact .inr ⟨hi, hv, h.trans hw⟩
    · exact .inl ⟨s.op, h.trans hw⟩
  · exact .inl hop
  · exact .inl ⟨s.op, h⟩

/-- Nothing the host writes ends a running command (R138). -/
theorem hostWrite_busy_of_busy (i : Nat) (v : Word) {s : State} (hb : s.busy = true) :
    (hostWrite i v s).busy = true := by
  obtain h | ⟨-, hb', -⟩ | ⟨-, hb', -⟩ | ⟨-, h⟩ | ⟨-, -, o, h⟩ := hostWrite_effects i v s
  · rw [h, hb]
  · simp [hb] at hb'
  · simp [hb] at hb'
  · rw [h, hb]
  · rw [h, hb]

theorem step_of_ignored_command_write {s : State} {w : Word} {rest : List Event}
    (h : s.events = .write 0 w :: rest) (hbe : s.busy = true ∨ s.err = true) :
    step s = .next { s with events := rest } := by
  rw [step_of_write h]
  obtain ⟨-, hw⟩ | ⟨hb, he, -⟩ | ⟨hb, he, -⟩ := writeCommand_cases w { s with events := rest }
  · exact congrArg _ hw
  · simp [show s.busy = false from hb, show s.err = false from he] at hbe
  · simp [show s.busy = false from hb, show s.err = false from he] at hbe

/-- Settles O33: the engine has no turn in an error, and of the host's accesses only the clearing
write reaches more than `OP`. -/
theorem errorStaysUntilCleared : Obligations.ErrorStaysUntilCleared := by
  intro s t hinv he hstep
  obtain ⟨hb, -⟩ := flags_of_error hinv he
  obtain ⟨-, es, h⟩ | ⟨i, rest, -, rfl⟩ | ⟨i, v, rest, hev, rfl⟩ | ⟨rest, hev, -⟩ :=
    step_next_transition hstep
  · obtain ⟨-, rfl⟩ | ⟨hb', -⟩ := engineStep_next h
    · exact .inl ⟨he, rfl, rfl, rfl, hb⟩
    · simp [hb] at hb'
  · exact .inl ⟨he, rfl, rfl, rfl, hb⟩
  · obtain ⟨o, hw⟩ | ⟨rfl, hv, hw⟩ := hostWrite_of_error i v (s := { s with events := rest }) he
    · rw [hw]
      exact .inl ⟨he, rfl, rfl, rfl, hb⟩
    · rw [hw]
      exact .inr (.inl ⟨v, rest, hev, hv, rfl, rfl, rfl, rfl⟩)
  · exact .inr (.inr ⟨rest, hev⟩)

/-- Settles O34: of the transitions that can follow, the host's leave `BUSY` set. -/
theorem onlyCompletionAndResetEndACommand : Obligations.OnlyCompletionAndResetEndACommand := by
  intro s t hb hstep htb
  obtain ⟨hturn, es, h⟩ | ⟨i, rest, -, rfl⟩ | ⟨i, v, rest, -, rfl⟩ | ⟨rest, hev, -⟩ :=
    step_next_transition hstep
  · obtain ⟨hb', -⟩ | ⟨-, i, -, rfl⟩ := engineStep_next h
    · simp [hb] at hb'
    · exact .inl ⟨hturn, complete_done_or_err _ _⟩
  · simp [hb] at htb
  · simp [hostWrite_busy_of_busy i v (s := { s with events := rest }) hb] at htb
  · exact .inr ⟨rest, hev⟩

/-- Settles O18: one fact for each kind of access; with nothing scheduled the engine's turn comes,
and it does nothing in an error. -/
theorem commandWriteIsIgnoredWhileBusyOrInError :
    Obligations.CommandWriteIsIgnoredWhileBusyOrInError := by
  intro s rest hbe
  refine ⟨fun w hev => step_of_ignored_command_write hev hbe,
    fun v => step_of_write, fun v => step_of_write, fun v => step_of_write, fun v => step_of_write,
    fun i v _ hread hev => ?_, fun v => step_of_clearing_write, fun hinv he hev => ?_⟩
  · rw [step_of_read hev, readValue_of_hostRead hread]
  · obtain ⟨hb, -⟩ := flags_of_error hinv he
    obtain ⟨hidle, -⟩ := engineHasNoStepUnlessBusy s hb
    exact hidle hev

end Sys2Proof.Proofs.Exceptions

/-!
PROOFS. The family of `spec/70_reset_and_hazards.md`: what a reset of the block in any state leaves
behind (R150).
-/

namespace Sys2Proof.Proofs.ResetAndHazards

open Sys2Proof.Machine Sys2Proof.Proofs.BlockState Sys2Proof.Proofs.Memory

theorem step_of_reset {s : State} {rest : List Event} (h : s.events = .reset :: rest) :
    step s = .next (resetBlock { s with events := rest }) :=
  step_of_events_cons h

/-- The block after a reset reads as the model's reset state: the schedule and the host's record,
which a reset keeps, lie outside the registers. -/
theorem hostRead_resetBlock (i : Nat) (s : State) :
    hostRead i (resetBlock s) = hostRead i State.reset := rfl

/-- Settles O7: the registers are those of the reset state, and a block that is neither busy nor in
error has no engine turn and accepts every command's word. -/
theorem resetAbandonsTheRunningCommand : Obligations.ResetAbandonsTheRunningCommand := by
  intro s rest hev
  obtain ⟨hread, -⟩ := resetRegistersReadZero
  refine ⟨_, step_of_reset hev, fun i hi => ?_, rfl, rfl, rfl, rfl, rfl, rfl, rfl,
    fun u hu => ?_, fun i => ?_⟩
  · rw [hostRead_resetBlock]
    exact hread i hi
  · obtain ⟨-, hidle⟩ := engineHasNoStepUnlessBusy
      { resetBlock { s with events := rest } with events := [.engine] } rfl
    rw [hidle [] rfl] at hu
    cases hu
    rfl
  · exact ⟨_, step_of_command_write rfl rfl rfl, rfl, opcodeField_encode i⟩

end Sys2Proof.Proofs.ResetAndHazards

/-!
PROOFS. The opcode map of `spec/30_encoding.md` section 2, word by word (R61).
-/

namespace Sys2Proof.Proofs.OpcodeMap

open Sys2Proof.Machine Sys2Proof.Proofs.Memory

/-- Settles O3: each word of the map is the encoding of its command, and the decoder inverts the
encoder. -/
theorem opcodeMapWords : Obligations.OpcodeMapWords :=
  ⟨decode_encode .msb32, decode_encode .npow2, decode_encode .eea, decode_encode .invm,
    decode_encode .mn1, decode_encode .mr1, decode_encode .mredc, decode_encode .mexp,
    decode_encode .powm⟩

end Sys2Proof.Proofs.OpcodeMap
